-- ==== Sys2Proof/Word.lean ====
section
/-! DEFINITION. Word types: 32-bit control words, register indices, and the bit length of a natural.

A W-bit value is held as a natural number (00_scope.md R8: "a model may hold every register as an unbounded
natural number with the invariant `< 2^W`"); the invariant is `Safety.Inv`. -/

namespace Sys2Proof

/-- A 32-bit control word (10_state.md section 3; 30_encoding.md R90). -/
abbrev CtlWord := BitVec 32

/-- A register index is 4 bits (20_memory.md R61), so the block's address map is the 16 indices and nothing else
(R78). -/
abbrev RegIndex := BitVec 4

/-- `bitlen(v)`, "the least `k` with `v < 2^k`; `bitlen(0) = 0`" (00_scope.md R11). -/
def bitlen (v : Nat) : Nat :=
  if v = 0 then 0 else v.log2 + 1

end Sys2Proof
end

