-- ==== Sys2Proof/Config.lean ====
section
/-! DEFINITION. The open parameters of the model and its free values. -/

namespace Sys2Proof.Config

/-- How far the open width exceeds the least width the spec allows. No body: nothing fixes it (log entry 5). -/
opaque widthAbove2048 : Nat

/-- `W`, "OPEN, `W >= 2048`" (00_scope.md R8, R9): the width of OPA, OPB, OPM, RES0, RES1. -/
def W : Nat := widthAbove2048 + 2048

/-- The free value that the `k`-th read of RES0 or RES1 while busy is made of (70_reset_and_hazards.md R286;
log entry 6). No body. -/
opaque busyResult : Nat → Nat

/-- Whether the random source has advanced for a draw that a reset abandons: "the random source's affair"
(70_reset_and_hazards.md R282; log entry 9). No body. -/
opaque abandonedDrawTaken : Nat → Bool

/-- Reset value of ROUNDS (10_state.md R30: "the document's `rounds=1000`"). -/
def roundsReset : CtlWord := 1000#32

end Sys2Proof.Config
end

