-- ==== Sys2Proof/Syntax.lean ====
section
/-! DEFINITION. The seven commands, the host actions and the host-script notation, as data. -/

namespace Sys2Proof

/-- The seven commands (30_encoding.md R92). No command word carries an operand (R91), so no constructor has
an argument. -/
inductive Instr where
  /-- 0x1, `(OPA * OPB) mod OPM` (41_modular_multiplier.md R131). -/
  | modmul
  /-- 0x2, `OPA ^ OPB mod OPM` (42_modular_exponentiation.md R142). -/
  | modexp
  /-- 0x3, inverse of OPA modulo OPM (43_modular_inverse.md R165). -/
  | modinv
  /-- 0x4, Fermat test of OPA (44_primality_tester.md R186). -/
  | primetest
  /-- 0x5, a Prime of SIZE bits (45_prime_generator.md R204). -/
  | primegen
  /-- 0x6, an RSA key of SIZE bits for the exponent OPA (46_keypair_generator.md R221). -/
  | keygen
  /-- 0x7, the cipher transform (47_cipher_transform.md R235). -/
  | transform
  deriving DecidableEq, Repr

/-- The registers of the index map (20_memory.md R61). -/
inductive RegName where
  | opa | opb | opm | res0 | res1 | size | rounds | cfg | cmd | status | errcode | tries
  deriving DecidableEq, Repr

/-- One host transaction (30_encoding.md R96): `WR idx, v`, `RD idx`, `RESET`. -/
inductive HostAction where
  | write (idx : RegIndex) (v : Nat)
  | read (idx : RegIndex)
  | reset
  deriving DecidableEq, Repr

/-- What the host does next. `wait` is the poll loop WAIT (30_encoding.md R97; 93_implementation_defined.md U3:
"A host poll loop is modelled as "wait until `BUSY = 0`""). `pause` is a turn in which the host presents nothing,
so that one sequencer step passes: with it a script chooses any interleaving of host and sequencer, which
40_sequencer.md R119 leaves open (log entry 4). -/
inductive HostEvent where
  | act (a : HostAction)
  | wait
  | pause
  deriving DecidableEq, Repr

/-- A statement of the host-script notation (30_encoding.md R97, with the pseudo-commands of R98). -/
inductive HostStmt where
  | wr (r : RegName) (v : Nat)
  | rd (r : RegName)
  | issue (i : Instr)
  | wait
  | reset
  | encrypt (m e n : Nat)
  | decrypt (c d n : Nat)
  | sign (m d n : Nat)
  | verify (s e n : Nat)
  deriving DecidableEq, Repr

end Sys2Proof
end

