-- ==== Sys2Proof/WellFormed.lean ====
section
/-! DEFINITION. Which terms are well formed: a host datum must fit the W-bit port. -/

namespace Sys2Proof

/-- `v` fits a W-bit register: `bitlen(v) <= W`, that is `v < 2^W` (00_scope.md R8, R11). -/
def fitsW (v : Nat) : Bool :=
  decide (bitlen v ≤ Config.W)

/-- Every command is well formed: it has no operand field that could be out of range (30_encoding.md R91). -/
def Instr.wf : Instr → Bool
  | .modmul | .modexp | .modinv | .primetest | .primegen | .keygen | .transform => true

/-- A write carries a datum in `[0, 2^W)` (20_memory.md R64; 30_encoding.md R96). -/
def HostAction.wf : HostAction → Bool
  | .write _ v => fitsW v
  | .read _ => true
  | .reset => true

/-- A host event is well formed when its transaction is. -/
def HostEvent.wf : HostEvent → Bool
  | .act a => a.wf
  | .wait => true
  | .pause => true

end Sys2Proof
end

