-- ==== Sys2Proof/Decode.lean ====
section
/-! DEFINITION. The command decoder, total on every 32-bit word, the register index map, and their inverses. -/

namespace Sys2Proof

/-- Why a word names no command (30_encoding.md R94). All three raise IllegalCommand. -/
inductive DecodeError where
  /-- A non-zero bit in `[31:4]`. -/
  | reservedBits
  /-- Opcode 0x0. -/
  | opcodeZero
  /-- Opcodes 0x8 to 0xF. -/
  | opcodeReserved
  deriving DecidableEq, Repr

/-- Field `opcode`, bits 3:0 (30_encoding.md R90). -/
def opcodeField (w : CtlWord) : BitVec 4 :=
  w.extractLsb' 0 4

/-- Field `zero`, bits 31:4 (30_encoding.md R90). -/
def zeroField (w : CtlWord) : BitVec 28 :=
  w.extractLsb' 4 28

/-- The opcode map (30_encoding.md R92). -/
def decodeOpcode (op : BitVec 4) : Except DecodeError Instr :=
  match op.toNat with
  | 0 => .error .opcodeZero
  | 1 => .ok .modmul
  | 2 => .ok .modexp
  | 3 => .ok .modinv
  | 4 => .ok .primetest
  | 5 => .ok .primegen
  | 6 => .ok .keygen
  | 7 => .ok .transform
  | _ => .error .opcodeReserved

/-- Decode a command word: "A decoder tells the command from bits `[3:0]` alone and checks that bits `[31:4]`
are 0" (30_encoding.md R90, R93, R94; 40_sequencer.md R113). -/
def decode (w : CtlWord) : Except DecodeError Instr :=
  if zeroField w = 0#28 then decodeOpcode (opcodeField w) else .error .reservedBits

/-- The opcode of a command (30_encoding.md R92). -/
def opcodeOf : Instr → BitVec 4
  | .modmul => 0x1#4
  | .modexp => 0x2#4
  | .modinv => 0x3#4
  | .primetest => 0x4#4
  | .primegen => 0x5#4
  | .keygen => 0x6#4
  | .transform => 0x7#4

/-- The command word: the opcode in bits 3:0 under 28 zero bits (30_encoding.md R90). -/
def encode (i : Instr) : CtlWord :=
  0#28 ++ opcodeOf i

/-- The host's view of the decoder: the instruction read from the `nbits`-bit word `w`, bits above `nbits` zero.
The block has no byte order (20_memory.md R68), so the word is given to the decoder as it is. -/
def decodeTableWord (nbits w : Nat) : Option Instr :=
  match decode (BitVec.ofNat 32 (w % 2 ^ nbits)) with
  | .ok i => some i
  | .error _ => none

/-- Index of a register (20_memory.md R61). -/
def indexOf : RegName → RegIndex
  | .opa => 0#4
  | .opb => 1#4
  | .opm => 2#4
  | .res0 => 3#4
  | .res1 => 4#4
  | .size => 5#4
  | .rounds => 6#4
  | .cfg => 7#4
  | .cmd => 8#4
  | .status => 9#4
  | .errcode => 10#4
  | .tries => 11#4

/-- The whole address map of the block: the register at each of the 16 indices, none for the reserved indices 12 to
15 (20_memory.md R61, R66). "The block fixes only the 16 register indices of rule R61" (R78): there is no other
address, no reserved memory range and no I/O region to map. -/
def regAt (idx : RegIndex) : Option RegName :=
  match idx.toNat with
  | 0 => some .opa
  | 1 => some .opb
  | 2 => some .opm
  | 3 => some .res0
  | 4 => some .res1
  | 5 => some .size
  | 6 => some .rounds
  | 7 => some .cfg
  | 8 => some .cmd
  | 9 => some .status
  | 10 => some .errcode
  | 11 => some .tries
  | _ => none

end Sys2Proof
end

