-- ==== Sys2Proof/Machine/State.lean ====
section
/-! DEFINITION. The state of the machine, its reset value, and the reasons a step can stop. -/

namespace Sys2Proof.Machine

/-- Working registers of the exponentiation engine (10_state.md R35). -/
structure ExpRegs where
  xAcc : Nat
  xBase : Nat
  xExp : Nat
  deriving DecidableEq, Repr

/-- Working registers of the inverse unit: remainders (10_state.md R36) and signed Bézout coefficients (R37). -/
structure InvRegs where
  rPrev : Nat
  rCurr : Nat
  tPrev : Int
  tCurr : Int
  deriving DecidableEq, Repr

/-- Working registers of the primality tester (10_state.md R38). -/
structure TesterRegs where
  cand : Nat
  wit : Nat
  trial : CtlWord
  deriving DecidableEq, Repr

/-- Working registers of key-pair generation (10_state.md R39). -/
structure KeyRegs where
  p : Nat
  q : Nat
  phi : Nat
  ev : Nat
  deriving DecidableEq, Repr

/-- Which of the two primes of KEYGEN is being generated (46_keypair_generator.md R217). -/
inductive KeySlot where
  | p
  | q
  deriving DecidableEq, Repr

/-- How far the running command has got: at its entry, or waiting for the answer to a draw. This is "whatever
control state the chosen step size needs" (10_state.md R33; 40_sequencer.md R119; log entry 3). -/
inductive Phase where
  /-- Nothing of the command has run yet (also the value while idle). -/
  | entry
  /-- PRIMETEST waits for a witness. -/
  | testWitness
  /-- PRIMEGEN waits for a candidate. -/
  | genCandidate
  /-- PRIMEGEN waits for a witness for the candidate in CAND. -/
  | genWitness
  /-- KEYGEN waits for a candidate for `k`. -/
  | keyCandidate (k : KeySlot)
  /-- KEYGEN waits for a witness for the candidate in CAND, which may become `k`. -/
  | keyWitness (k : KeySlot)
  deriving DecidableEq, Repr

/-- One answered draw: the request `(lo, hi)` and the answer (20_memory.md R70). -/
structure DrawRecord where
  lo : Nat
  hi : Nat
  val : Nat
  deriving DecidableEq, Repr

/-- The random source, "a separate component of the machine state" (10_state.md R41), outside the block.
`answers` are the answers it will give, in order: quantified over, so every behaviour of a source is admitted
(log entry 2). `log` are the draws it has answered, newest first. -/
structure RandomSource where
  answers : List Nat
  log : List DrawRecord
  deriving DecidableEq, Repr

/-- One value the host has read (20_memory.md R63). -/
structure HostReadRecord where
  idx : RegIndex
  val : Nat
  deriving DecidableEq, Repr

/-- The state. It has no memory and no vector table, because the block has none (20_memory.md R60, R78). The block's
registers (10_state.md R20) come first, then the control state of the chosen step
size, then what is not the block's: the random source, the host, and the counter of free values. -/
structure State where
  /-- OPA, OPB, OPM: operand registers (10_state.md R21). -/
  opa : Nat
  opb : Nat
  opm : Nat
  /-- RES0, RES1: result registers (R23). -/
  res0 : Nat
  res1 : Nat
  /-- SIZE (R25). -/
  size : CtlWord
  /-- ROUNDS (R30). -/
  rounds : CtlWord
  /-- CFG, bit 0 is WRANGE (R31). -/
  cfg : CtlWord
  /-- STATUS (R27). -/
  status : CtlWord
  /-- ERRCODE (R28). -/
  errcode : CtlWord
  /-- TRIES (R29). -/
  tries : CtlWord
  /-- OPC, the latched command word, hidden (R32). -/
  opc : CtlWord
  /-- X_ACC, X_BASE, X_EXP, hidden (R35). -/
  exp : ExpRegs
  /-- R_PREV, R_CURR, T_PREV, T_CURR, hidden (R36, R37). -/
  inv : InvRegs
  /-- CAND, WIT, TRIAL, hidden (R38). -/
  tst : TesterRegs
  /-- P, Q, PHI, EV, hidden (R39). -/
  key : KeyRegs
  /-- How far the running command has got (R33). -/
  phase : Phase
  /-- The random source (R41). -/
  rand : RandomSource
  /-- What the host still has to do, first event first (30_encoding.md R96, R97). -/
  host : List HostEvent
  /-- What the host has read, newest first. -/
  reads : List HostReadRecord
  /-- How many free values have been taken (the model's own counter; log entry 6). -/
  fresh : Nat
  deriving DecidableEq, Repr

/-- The machine right after reset (10_state.md R43, 70_reset_and_hazards.md R281): idle, with no reset vector to start
from (20_memory.md R78). The working registers, which
the spec leaves unspecified, are 0 (log entry 1). The random source and the host have nothing to give
(log entries 2 and 10). -/
def State.reset : State where
  opa := 0
  opb := 0
  opm := 0
  res0 := 0
  res1 := 0
  size := 0#32
  rounds := Config.roundsReset
  cfg := 0#32
  status := 0#32
  errcode := 0#32
  tries := 0#32
  opc := 0#32
  exp := { xAcc := 0, xBase := 0, xExp := 0 }
  inv := { rPrev := 0, rCurr := 0, tPrev := 0, tCurr := 0 }
  tst := { cand := 0, wit := 0, trial := 0#32 }
  key := { p := 0, q := 0, phi := 0, ev := 0 }
  phase := .entry
  rand := { answers := [], log := [] }
  host := []
  reads := []
  fresh := 0

/-- The error kinds (60_exceptions.md R250). They are error completions, not stops of the machine. -/
inductive ErrorKind where
  | invalidBitWidth
  | noInverseExists
  | modulusTooSmall
  | keyGenerationFailed
  | illegalCommand
  deriving DecidableEq, Repr

/-- Why the machine can stop. -/
inductive Fault where
  /-- Raised by a draw whose answer `v` lies outside the requested `[lo, hi]`: "the behaviour of the block is
  undefined" (20_memory.md R73; 93_implementation_defined.md U4). Safe: the model stops, where hardware does
  something the spec does not say. -/
  | drawOutOfContract (lo hi v : Nat)
  deriving DecidableEq, Repr

/-- Why a step has no meaning. -/
inductive Refusal where
  /-- The named instruction has no meaning yet. Raised by no arm of `exec`. Safe. -/
  | notModelled (mnemonic : String)
  /-- Raised by a host write whose datum does not fit the W-bit port: no such transaction exists
  (20_memory.md R62, R64; 30_encoding.md R96). Safe. -/
  | datumTooWide (v : Nat)
  deriving DecidableEq, Repr

/-- The outcome of a step. -/
abbrev Result := Host.Outcome State Fault Refusal

/-- Who moves next, with the state in which it moves (00_scope.md R14; 40_sequencer.md R110). -/
inductive Mover where
  | host (a : HostAction) (s : State)
  | sequencer (s : State)
  | nobody (s : State)
  deriving DecidableEq, Repr

end Sys2Proof.Machine
end

