-- ==== Sys2Proof/Machine/Flags.lean ====
section
/-! DEFINITION. The STATUS flags, the error codes, and the saturating count. -/

namespace Sys2Proof.Machine

/-- The STATUS word of four flags: bit 0 BUSY, 1 DONE, 2 ERR, 3 FLAG, bits 31:4 zero (10_state.md R27). -/
def statusWord (busy done err flag : Bool) : CtlWord :=
  BitVec.ofNat 32 (busy.toNat + 2 * done.toNat + 4 * err.toNat + 8 * flag.toNat)

/-- STATUS.BUSY (10_state.md R27). -/
def State.busy (s : State) : Bool := s.status.getLsbD 0

/-- STATUS.DONE (10_state.md R27). -/
def State.done (s : State) : Bool := s.status.getLsbD 1

/-- STATUS.ERR (10_state.md R27). -/
def State.err (s : State) : Bool := s.status.getLsbD 2

/-- STATUS.FLAG (10_state.md R27). -/
def State.flag (s : State) : Bool := s.status.getLsbD 3

/-- The numeric error codes (60_exceptions.md R250). -/
def ErrorKind.code : ErrorKind → CtlWord
  | .invalidBitWidth => 1#32
  | .noInverseExists => 2#32
  | .modulusTooSmall => 3#32
  | .keyGenerationFailed => 4#32
  | .illegalCommand => 5#32

/-- `min(TRIES + 1, 2^32 - 1)`: it "never wraps to 0" (10_state.md R29, 45_prime_generator.md R203, R205). -/
def bumpTries (t : CtlWord) : CtlWord :=
  if t = BitVec.allOnes 32 then t else t + 1#32

end Sys2Proof.Machine
end

