-- ==== Sys2Proof/Machine/Operands.lean ====
section
/-! DEFINITION. How commands read their operands, and the ranges they draw from. -/

namespace Sys2Proof.Machine

/-- SIZE as a natural (30_encoding.md R91: "SIZE and ROUNDS as 32-bit naturals"). -/
def State.sizeNat (s : State) : Nat := s.size.toNat

/-- ROUNDS as a natural (30_encoding.md R91). -/
def State.roundsNat (s : State) : Nat := s.rounds.toNat

/-- CFG.WRANGE: true is the loose range (10_state.md R31). -/
def State.loose (s : State) : Bool := s.cfg.getLsbD 0

/-- The width of each prime of KEYGEN, `key_size div 2` (46_keypair_generator.md R216). -/
def State.primeWidth (s : State) : Nat := s.sizeNat / 2

/-- The witness range `(lo, hi)` for a candidate: tight `[2, c - 2]`, loose `[1, c - 1]`
(44_primality_tester.md R182). -/
def witnessRange (loose : Bool) (c : Nat) : Nat × Nat :=
  if loose then (1, c - 1) else (2, c - 2)

/-- The candidate range of a bit width: exactly the integers of `bw` bits with the top bit set
(45_prime_generator.md R202). -/
def candidateRange (bw : Nat) : Nat × Nat :=
  (2 ^ (bw - 1), 2 ^ bw - 1)

/-- The request on the draw port: `d_lo`, `d_hi` while `d_req` is raised (20_memory.md R62, R70, R72). An idle
block and a command at its entry request nothing. -/
def drawRequest (s : State) : Option (Nat × Nat) :=
  if s.busy then
    match s.phase with
    | .entry => none
    | .testWitness | .genWitness | .keyWitness _ => some (witnessRange s.loose s.tst.cand)
    | .genCandidate => some (candidateRange s.sizeNat)
    | .keyCandidate _ => some (candidateRange s.primeWidth)
  else none

/-- A bit width PRIMEGEN accepts: `1 <= bit_width <= W` (45_prime_generator.md R201). -/
def bitWidthOk (bw : Nat) : Bool :=
  decide (bw ≠ 0) && decide (bw ≤ Config.W)

/-- A key size KEYGEN accepts: not 0, not odd, not above W (46_keypair_generator.md R216). -/
def keySizeOk (n : Nat) : Bool :=
  decide (n ≠ 0) && decide (n % 2 = 0) && decide (n ≤ Config.W)

end Sys2Proof.Machine
end

