-- ==== Sys2Proof/Machine/Ops.lean ====
section
/-! DEFINITION. The shared operations: acceptance, completion, error completion, reset, draws, host accesses. -/

namespace Sys2Proof.Machine

/-- Acceptance of the command word `w` (40_sequencer.md R111): one indivisible change. It is also the only way
out of the error state besides reset (60_exceptions.md R260). RES0 and RES1 keep their contents here, which no
read can see until completion (70_reset_and_hazards.md R286; log entry 8). -/
def accept (w : CtlWord) (s : State) : State :=
  { s with
    opc := w
    status := statusWord true false false false
    errcode := 0#32
    tries := 0#32
    phase := .entry }

/-- `complete (r0, r1, f)` (40_sequencer.md R116): one indivisible change. -/
def complete (r0 r1 : Nat) (f : Bool) (s : State) : State :=
  { s with
    res0 := r0
    res1 := r1
    status := statusWord false true false f
    errcode := 0#32
    phase := .entry }

/-- `raise <Error>`, error completion (60_exceptions.md R256; 40_sequencer.md R117): taking an exception is this
one change, nothing else is saved. -/
def errorComplete (k : ErrorKind) (s : State) : State :=
  { s with
    res0 := 0
    res1 := 0
    status := statusWord false true true false
    errcode := k.code
    phase := .entry }

/-- The random source after a reset that finds a draw outstanding: "whether the random source has advanced for
it is the random source's affair" (70_reset_and_hazards.md R282; log entry 9). -/
def abandonDraw (k : Nat) (r : RandomSource) : RandomSource :=
  if Config.abandonedDrawTaken k then { r with answers := r.answers.tail } else r

/-- RESET (70_reset_and_hazards.md R281 to R283): every register takes its reset value, a running command is
abandoned, the random source is not touched but for an outstanding draw. The host goes on with its script. -/
def resetBlock (s : State) : State :=
  match drawRequest s with
  | none => { State.reset with rand := s.rand, host := s.host, reads := s.reads, fresh := s.fresh }
  | some _ =>
    { State.reset with
      rand := abandonDraw s.fresh s.rand
      host := s.host
      reads := s.reads
      fresh := s.fresh + 1 }

/-- The random source after it has answered the request `(lo, hi)` with `v` (20_memory.md R70): it has advanced
by that one draw. -/
def RandomSource.advance (r : RandomSource) (lo hi v : Nat) : RandomSource :=
  { answers := r.answers.tail, log := { lo := lo, hi := hi, val := v } :: r.log }

/-- `Draw(lo, hi)`, then `k` with the answer (20_memory.md R70). No answer yet: "the sequencer waits" (R73), and
nothing changes. An answer outside `[lo, hi]` breaks the contract: undefined (R73), a named fault. -/
def draw (range : Nat × Nat) (k : Nat → State → Result) (s : State) : Result :=
  match s.rand.answers with
  | [] => .next s
  | v :: _ =>
    if range.1 ≤ v ∧ v ≤ range.2 then
      k v { s with rand := s.rand.advance range.1 range.2 v }
    else .fault (.drawOutOfContract range.1 range.2 v)

/-- A register's value as a host read sees it, RES0 and RES1 while busy left aside: 32-bit registers are
zero-extended, CMD and the reserved indices read 0 (20_memory.md R63, R65, R66). -/
def readRegister (r : Option RegName) (s : State) : Nat :=
  match r with
  | some .opa => s.opa
  | some .opb => s.opb
  | some .opm => s.opm
  | some .res0 => s.res0
  | some .res1 => s.res1
  | some .size => s.size.toNat
  | some .rounds => s.rounds.toNat
  | some .cfg => s.cfg.toNat
  | some .cmd => 0
  | some .status => s.status.toNat
  | some .errcode => s.errcode.toNat
  | some .tries => s.tries.toNat
  | none => 0

/-- Is this register one of the result registers, whose read while busy is unspecified
(70_reset_and_hazards.md R286)? -/
def isResult (r : Option RegName) : Bool :=
  match r with
  | some .res0 => true
  | some .res1 => true
  | _ => false

/-- `HostRead(idx)` (20_memory.md R63): the value goes to the host; the block does not change. A read of RES0 or
RES1 while busy gives any W-bit value, a free value, possibly another each time (70_reset_and_hazards.md R286). -/
def hostRead (idx : RegIndex) (s : State) : State :=
  if isResult (regAt idx) && s.busy then
    { s with
      reads := { idx := idx, val := Config.busyResult s.fresh % 2 ^ Config.W } :: s.reads
      fresh := s.fresh + 1 }
  else { s with reads := { idx := idx, val := readRegister (regAt idx) s } :: s.reads }

/-- `HostWrite(idx, v)` (20_memory.md R64). While busy no write has an effect (70_reset_and_hazards.md R285). A
32-bit register keeps bits `[31:0]` of the datum, CFG bit 0 only; a write to CMD is the acceptance of a command. -/
def hostWrite (idx : RegIndex) (v : Nat) (s : State) : State :=
  if s.busy then s
  else
    match regAt idx with
    | some .opa => { s with opa := v }
    | some .opb => { s with opb := v }
    | some .opm => { s with opm := v }
    | some .size => { s with size := BitVec.ofNat 32 v }
    | some .rounds => { s with rounds := BitVec.ofNat 32 v }
    | some .cfg => { s with cfg := BitVec.ofNat 32 (v % 2) }
    | some .cmd => accept (BitVec.ofNat 32 v) s
    | some .res0 => s
    | some .res1 => s
    | some .status => s
    | some .errcode => s
    | some .tries => s
    | none => s

/-- One host transaction (30_encoding.md R96). A write whose datum does not fit the port is no transaction. -/
def hostAct (a : HostAction) (s : State) : Result :=
  match a with
  | .write idx v => if fitsW v then .next (hostWrite idx v s) else .refused (.datumTooWide v)
  | .read idx => .next (hostRead idx s)
  | .reset => .next (resetBlock s)

/-- Who moves next. A transaction the host presents is performed at once. While busy the sequencer moves when the
host waits, pauses or has nothing left. While idle only the host acts, and WAIT and a pause end
(40_sequencer.md R110, R119; 30_encoding.md R97; log entry 4). -/
def nextMover (s : State) : Mover :=
  match s.host with
  | .act a :: rest => .host a { s with host := rest }
  | .wait :: rest => if s.busy then .sequencer s else .nobody { s with host := rest }
  | .pause :: rest =>
    if s.busy then .sequencer { s with host := rest } else .nobody { s with host := rest }
  | [] => if s.busy then .sequencer s else .nobody s

/-- The sequencer's only action on a word that names no command (40_sequencer.md R114; 60_exceptions.md R255). -/
def execIllegal (s : State) : Result :=
  .next (errorComplete .illegalCommand s)

end Sys2Proof.Machine
end

