-- ==== Sys2Proof/Machine/Multiplier.lean ====
section
/-! DEFINITION. modular_multiplier: MODMUL. -/

namespace Sys2Proof.Machine

/-- `mod_mul(a, b, m)`: the exact product, then the remainder (41_modular_multiplier.md R130). -/
def modMul (a b m : Nat) : Nat :=
  a * b % m

/-- MODMUL (41_modular_multiplier.md R131). -/
def execModmul (s : State) : Result :=
  if s.opm = 0 then .next (errorComplete .modulusTooSmall s)
  else .next (complete (modMul s.opa s.opb s.opm) 0 false s)

end Sys2Proof.Machine
end

