-- ==== Sys2Proof/Machine/Exponentiation.lean ====
section
/-! DEFINITION. modular_exponentiation_engine: MODEXP. -/

namespace Sys2Proof.Machine

/-- One iteration of the exponent loop (42_modular_exponentiation.md R141): multiply if the low exponent bit is
set, shift the exponent, square the base. -/
def expStep (m : Nat) (r : ExpRegs) : ExpRegs where
  xAcc := if r.xExp % 2 = 1 then modMul r.xAcc r.xBase m else r.xAcc
  xExp := r.xExp / 2
  xBase := modMul r.xBase r.xBase m

/-- `while X_EXP > 0` with at most `fuel` iterations (42_modular_exponentiation.md R141). -/
def expLoop (m : Nat) : Nat → ExpRegs → ExpRegs
  | 0, r => r
  | fuel + 1, r => if r.xExp = 0 then r else expLoop m fuel (expStep m r)

/-- The initial values of X_ACC, X_BASE, X_EXP (42_modular_exponentiation.md R141). -/
def expInit (base exponent m : Nat) : ExpRegs where
  xAcc := 1
  xBase := base % m
  xExp := exponent

/-- `mod_pow(base, exponent, m)` for `m >= 1`: the value, and the engine's registers after the invocation
(42_modular_exponentiation.md R140, R141). The loop runs `bitlen(exponent)` iterations (R144). -/
def modPow (r : ExpRegs) (base exponent m : Nat) : Nat × ExpRegs :=
  if m = 1 then (0, r)
  else
    let r' := expLoop m (bitlen exponent) (expInit base exponent m)
    (r'.xAcc, r')

/-- The engine run as a command: entry check, then `mod_pow` of OPA, OPB, OPM
(42_modular_exponentiation.md R142; 47_cipher_transform.md R235). -/
def powCommand (s : State) : Result :=
  if s.opm = 0 then .next (errorComplete .modulusTooSmall s)
  else
    let x := modPow s.exp s.opa s.opb s.opm
    .next (complete x.1 0 false { s with exp := x.2 })

/-- MODEXP (42_modular_exponentiation.md R142). -/
def execModexp (s : State) : Result :=
  powCommand s

end Sys2Proof.Machine
end

