-- ==== Sys2Proof/Machine/Cipher.lean ====
section
/-! DEFINITION. The cipher transform: TRANSFORM. -/

namespace Sys2Proof.Machine

/-- TRANSFORM: "identical semantics" to MODEXP under an opcode of its own (47_cipher_transform.md R235). -/
def execTransform (s : State) : Result :=
  powCommand s

end Sys2Proof.Machine
end

