-- ==== Sys2Proof/Machine/Inverse.lean ====
section
/-! DEFINITION. modular_inverse_unit: MODINV, and the gcd it supplies to the tester. -/

namespace Sys2Proof.Machine

/-- The initial values of the remainders and coefficients (43_modular_inverse.md R161). -/
def euclidInit (value modulus : Nat) : InvRegs where
  rPrev := modulus
  rCurr := value
  tPrev := 0
  tCurr := 1

/-- One iteration of "iterative division": both pair assignments are simultaneous (43_modular_inverse.md R162). -/
def euclidStep (r : InvRegs) : InvRegs :=
  let q := r.rPrev / r.rCurr
  { rPrev := r.rCurr
    rCurr := r.rPrev - q * r.rCurr
    tPrev := r.tCurr
    tCurr := r.tPrev - (q : Int) * r.tCurr }

/-- `while R_CURR != 0` with at most `fuel` iterations (43_modular_inverse.md R162). -/
def euclidLoop : Nat → InvRegs → InvRegs
  | 0, r => r
  | fuel + 1, r => if r.rCurr = 0 then r else euclidLoop fuel (euclidStep r)

/-- The Euclid loop run to its end. Every iteration makes R_CURR smaller, so its first value bounds their number
(43_modular_inverse.md R163). -/
def euclid (value modulus : Nat) : InvRegs :=
  euclidLoop value (euclidInit value modulus)

/-- `mod_inverse(value, modulus)` for `modulus >= 1`: the inverse, or none for NoInverseExists, and the unit's
registers after the invocation (43_modular_inverse.md R160, R164). -/
def modInverse (value modulus : Nat) : Option Nat × InvRegs :=
  let r := euclid value modulus
  if r.rPrev = 1 then (some (r.tPrev % (modulus : Int)).toNat, r) else (none, r)

/-- `gcd(a, b)` as the unit supplies it: R_PREV at the loop's exit (43_modular_inverse.md R167). -/
def gcdUnit (a b : Nat) : Nat × InvRegs :=
  let r := euclid a b
  (r.rPrev, r)

/-- MODINV (43_modular_inverse.md R165). -/
def execModinv (s : State) : Result :=
  if s.opm = 0 then .next (errorComplete .modulusTooSmall s)
  else
    let x := modInverse s.opa s.opm
    match x.1 with
    | some d => .next (complete d 0 false { s with inv := x.2 })
    | none => .next (errorComplete .noInverseExists { s with inv := x.2 })

end Sys2Proof.Machine
end

