-- ==== Sys2Proof/Machine/Tester.lean ====
section
/-! DEFINITION. The Fermat primality tester (the unit named miller_rabin_primality_tester): PRIMETEST. -/

namespace Sys2Proof.Machine

/-- Where an invocation of the tester stands: it has answered, or it waits for the next witness. -/
inductive TestProgress where
  | verdict (b : Bool)
  | needsWitness
  deriving DecidableEq, Repr

/-- The head of the witness loop: `TRIAL < rounds` asks for a witness, otherwise the answer is true
(44_primality_tester.md R184, R185, R188). -/
def trialsLeft (s : State) : TestProgress :=
  if s.tst.trial.toNat < s.roundsNat then .needsWitness else .verdict true

/-- `is_probable_prime(c, ROUNDS)` from its start up to its first draw or its answer: small candidates are
rejected (44_primality_tester.md R181), an empty range accepts (R183), otherwise TRIAL starts at 0 (R184). -/
def testBegin (c : Nat) (s : State) : State × TestProgress :=
  let s1 := { s with tst := { s.tst with cand := c } }
  if c < 2 then (s1, .verdict false)
  else if (witnessRange s.loose c).2 < (witnessRange s.loose c).1 then (s1, .verdict true)
  else
    let s2 := { s with tst := { s.tst with cand := c, trial := 0#32 } }
    (s2, trialsLeft s2)

/-- One trial with the drawn witness `a` (44_primality_tester.md R184): gcd first, then the power; a failure of
either rejects at once, otherwise TRIAL counts up and the loop's head decides. -/
def testTrial (a : Nat) (s : State) : State × TestProgress :=
  let c := s.tst.cand
  let g := gcdUnit a c
  let s1 := { s with tst := { s.tst with wit := a }, inv := g.2 }
  if g.1 ≠ 1 then (s1, .verdict false)
  else
    let x := modPow s1.exp a (c - 1) c
    let s2 := { s1 with exp := x.2 }
    if x.1 ≠ 1 then (s2, .verdict false)
    else
      let s3 := { s2 with tst := { s2.tst with trial := s2.tst.trial + 1#32 } }
      (s3, trialsLeft s3)

/-- PRIMETEST goes on from where the tester stands: it waits for a witness, or completes with the Boolean in
STATUS.FLAG (44_primality_tester.md R186). -/
def primetestGo (x : State × TestProgress) : Result :=
  match x.2 with
  | .needsWitness => .next { x.1 with phase := .testWitness }
  | .verdict b => .next (complete 0 0 b x.1)

/-- PRIMETEST (44_primality_tester.md R186), up to its next draw or its completion. -/
def execPrimetest (s : State) : Result :=
  match s.phase with
  | .testWitness =>
    draw (witnessRange s.loose s.tst.cand) (fun a s1 => primetestGo (testTrial a s1)) s
  | .entry | .genCandidate | .genWitness | .keyCandidate _ | .keyWitness _ =>
    primetestGo (testBegin s.opa s)

end Sys2Proof.Machine
end

