-- ==== Sys2Proof/Machine/Generator.lean ====
section
/-! DEFINITION. prime_generator: PRIMEGEN. -/

namespace Sys2Proof.Machine

/-- The start of an invocation of `generate_prime`: TRIES is cleared (45_prime_generator.md R203). -/
def genBegin (s : State) : State :=
  { s with tries := 0#32 }

/-- A candidate has been drawn: TRIES counts it, together with the draw, and the tester takes it
(45_prime_generator.md R203, R205). -/
def genCandidateDrawn (c : Nat) (s : State) : State × TestProgress :=
  testBegin c { s with tries := bumpTries s.tries }

/-- PRIMEGEN goes on from where the tester stands: wait for a witness, retry with a fresh candidate, or complete
with the candidate (45_prime_generator.md R203, R204). -/
def primegenGo (x : State × TestProgress) : Result :=
  match x.2 with
  | .needsWitness => .next { x.1 with phase := .genWitness }
  | .verdict false => .next { x.1 with phase := .genCandidate }
  | .verdict true => .next (complete x.1.tst.cand 0 false x.1)

/-- PRIMEGEN (45_prime_generator.md R204), up to its next draw or its completion. -/
def execPrimegen (s : State) : Result :=
  match s.phase with
  | .genCandidate =>
    draw (candidateRange s.sizeNat) (fun c s1 => primegenGo (genCandidateDrawn c s1)) s
  | .genWitness =>
    draw (witnessRange s.loose s.tst.cand) (fun a s1 => primegenGo (testTrial a s1)) s
  | .entry | .testWitness | .keyCandidate _ | .keyWitness _ =>
    if bitWidthOk s.sizeNat then .next { genBegin s with phase := .genCandidate }
    else .next (errorComplete .invalidBitWidth s)

end Sys2Proof.Machine
end

