-- ==== Sys2Proof/Machine/Keypair.lean ====
section
/-! DEFINITION. Key-pair generation: KEYGEN. -/

namespace Sys2Proof.Machine

/-- Steps 2 to 4 of key generation, once P and Q are there: `n`, PHI, EV, then the inverse; its failure is
reported as KeyGenerationFailed (46_keypair_generator.md R218 to R221; 60_exceptions.md R261). -/
def keyFinish (s : State) : Result :=
  let n := s.key.p * s.key.q
  let phi := (s.key.p - 1) * (s.key.q - 1)
  let ev := s.opa % phi
  let x := modInverse ev phi
  let s1 := { s with key := { s.key with phi := phi, ev := ev }, inv := x.2 }
  match x.1 with
  | some d => .next (complete n d false s1)
  | none => .next (errorComplete .keyGenerationFailed s1)

/-- A prime has been found: it is P, and the second generation begins, or it is Q, and the key is finished
(46_keypair_generator.md R217). -/
def keyPrimeFound (k : KeySlot) (s : State) : Result :=
  match k with
  | .p =>
    .next { genBegin { s with key := { s.key with p := s.tst.cand } } with phase := .keyCandidate .q }
  | .q => keyFinish { s with key := { s.key with q := s.tst.cand } }

/-- KEYGEN goes on from where the tester stands (46_keypair_generator.md R217; 45_prime_generator.md R203). -/
def keygenGo (k : KeySlot) (x : State × TestProgress) : Result :=
  match x.2 with
  | .needsWitness => .next { x.1 with phase := .keyWitness k }
  | .verdict false => .next { x.1 with phase := .keyCandidate k }
  | .verdict true => keyPrimeFound k x.1

/-- KEYGEN (46_keypair_generator.md R221), up to its next draw or its completion. -/
def execKeygen (s : State) : Result :=
  match s.phase with
  | .keyCandidate k =>
    draw (candidateRange s.primeWidth) (fun c s1 => keygenGo k (genCandidateDrawn c s1)) s
  | .keyWitness k =>
    draw (witnessRange s.loose s.tst.cand) (fun a s1 => keygenGo k (testTrial a s1)) s
  | .entry | .testWitness | .genCandidate | .genWitness =>
    if keySizeOk s.sizeNat then .next { genBegin s with phase := .keyCandidate .p }
    else .next (errorComplete .invalidBitWidth s)

end Sys2Proof.Machine
end

