-- ==== Sys2Proof/Machine/Dispatch.lean ====
section
/-! DEFINITION. One arm per command: the meaning of each. -/

namespace Sys2Proof.Machine

/-- The sequencer's dispatch (40_sequencer.md R113): run the command up to its next draw or its completion. -/
def exec (i : Instr) (s : State) : Host.Outcome State Fault Refusal :=
  match i with
  | .modmul => Sys2Proof.Machine.execModmul s
  | .modexp => Sys2Proof.Machine.execModexp s
  | .modinv => Sys2Proof.Machine.execModinv s
  | .primetest => Sys2Proof.Machine.execPrimetest s
  | .primegen => Sys2Proof.Machine.execPrimegen s
  | .keygen => Sys2Proof.Machine.execKeygen s
  | .transform => Sys2Proof.Machine.execTransform s

end Sys2Proof.Machine
end

