-- ==== Sys2Proof/Machine/HostScript.lean ====
section
/-! DEFINITION. The host-script notation expanded into host transactions. -/

namespace Sys2Proof.Machine

/-- `WR <reg>, <value>` (30_encoding.md R97). -/
def wrEvent (r : RegName) (v : Nat) : HostEvent :=
  .act (.write (indexOf r) v)

/-- `<MNEMONIC>`: "`HostWrite(8, opcode)`" (30_encoding.md R97). -/
def issueEvent (i : Instr) : HostEvent :=
  wrEvent .cmd (encode i).toNat

/-- The common shape of the pseudo-commands: OPA, OPB, OPM, then TRANSFORM (30_encoding.md R98). -/
def transformEvents (payload exponent modulus : Nat) : List HostEvent :=
  [wrEvent .opa payload, wrEvent .opb exponent, wrEvent .opm modulus, issueEvent .transform]

/-- The expansion of one statement (30_encoding.md R97, R98; 47_cipher_transform.md R236 to R239). -/
def expandStmt : HostStmt → List HostEvent
  | .wr r v => [wrEvent r v]
  | .rd r => [.act (.read (indexOf r))]
  | .issue i => [issueEvent i]
  | .wait => [.wait]
  | .reset => [.act .reset]
  | .encrypt m e n => transformEvents m e n
  | .decrypt c d n => transformEvents c d n
  | .sign m d n => transformEvents m d n
  | .verify s e n => transformEvents s e n

/-- The expansion of a script: its statements in order (30_encoding.md R96, R97). -/
def expandScript (p : List HostStmt) : List HostEvent :=
  p.flatMap expandStmt

end Sys2Proof.Machine
end

