-- ==== Sys2Proof/Machine/Step.lean ====
section
/-! DEFINITION. One step of the machine: the host's transaction, or the sequencer's turn. -/

namespace Sys2Proof.Machine

/-- The sequencer's turn: "The sequencer decodes OPC, not CMD" (10_state.md R32; 40_sequencer.md R113). -/
def sequencerStep (s : State) : Host.Outcome State Fault Refusal :=
  match decode s.opc with
  | .ok i => exec i s
  | .error _ => execIllegal s

/-- One step. When nobody moves, the block is idle and does nothing (40_sequencer.md R110). -/
def step (s : State) : Host.Outcome State Fault Refusal :=
  match nextMover s with
  | .host a t => hostAct a t
  | .sequencer t => sequencerStep t
  | .nobody t => .next t

/-- `s` with the command word `w` accepted, as a host write of it to CMD would leave it (40_sequencer.md R111),
and the sequencer to move next: the host pauses for one turn. The word stands in OPC, where the sequencer takes
its instruction from (log entry 10). -/
def State.withFetchWord (s : State) (nbits w : Nat) : State :=
  { accept (BitVec.ofNat 32 (w % 2 ^ nbits)) s with host := .pause :: s.host }

end Sys2Proof.Machine
end

