-- ==== Sys2Proof/Safety.lean ====
section
/-! DEFINITION. The terms claims use: the invariant of the machine, runs, what is hidden from the host, and the
tester, the generator and the key generation as relations between a random source's answers and an outcome. -/

namespace Sys2Proof.Safety

open Sys2Proof.Machine

/-- `n` steps, stopping at the first fault or refusal. -/
def steps : Nat → State → Result
  | 0, s => .next s
  | n + 1, s =>
    match step s with
    | .next t => steps n t
    | .fault r => .fault r
    | .refused r => .refused r

/-- The outcome with a function applied to its next state. -/
def mapNext (f : State → State) : Result → Result
  | .next s => .next (f s)
  | .fault r => .fault r
  | .refused r => .refused r

/-- The working registers blanked: what is left is all that can be told apart from outside the block, once the
unit invocations that use them are over (10_state.md R34). -/
def eraseScratch (s : State) : State :=
  { s with
    exp := State.reset.exp
    inv := State.reset.inv
    tst := State.reset.tst
    key := State.reset.key }

/-- Other values in all the working registers. -/
def withScratch (e : ExpRegs) (v : InvRegs) (t : TesterRegs) (k : KeyRegs) (s : State) : State :=
  { s with exp := e, inv := v, tst := t, key := k }

/-- The commands that draw (20_memory.md R72). -/
def drawing : Instr → Bool
  | .primetest => true
  | .primegen => true
  | .keygen => true
  | .modmul => false
  | .modexp => false
  | .modinv => false
  | .transform => false

/-- The registers a host writes, and the latched word: no command changes them (10_state.md R21, R25, R30, R31,
R32). -/
def sameInputs (s t : State) : Prop :=
  t.opa = s.opa ∧ t.opb = s.opb ∧ t.opm = s.opm ∧ t.size = s.size ∧ t.rounds = s.rounds ∧ t.cfg = s.cfg ∧
    t.opc = s.opc

/-- The host's script, what it has read, and the counter of free values are unchanged. -/
def sameHost (s t : State) : Prop :=
  t.host = s.host ∧ t.reads = s.reads ∧ t.fresh = s.fresh

/-- The block has completed its command without an error, with the results `r0`, `r1` and FLAG `f`
(40_sequencer.md R116): STATUS is DONE, or DONE with FLAG. -/
def completedOk (f : Bool) (r0 r1 : Nat) (t : State) : Prop :=
  t.status = (if f then 0xA#32 else 0x2#32) ∧ t.errcode = 0#32 ∧ t.res0 = r0 ∧ t.res1 = r1

/-- The block has completed its command with the error code `c` (60_exceptions.md R256): STATUS is DONE with
ERR. -/
def completedErr (c : CtlWord) (t : State) : Prop :=
  t.status = 0x6#32 ∧ t.errcode = c ∧ t.res0 = 0 ∧ t.res1 = 0

/-- The acceptance of the word `w` (40_sequencer.md R111). Of RES0, RES1 and the working registers nothing is said:
they become unspecified. -/
def acceptedWord (w : CtlWord) (s t : State) : Prop :=
  t.opc = w ∧ t.status = 0x1#32 ∧ t.errcode = 0#32 ∧ t.tries = 0#32 ∧ t.opa = s.opa ∧ t.opb = s.opb ∧
    t.opm = s.opm ∧ t.size = s.size ∧ t.rounds = s.rounds ∧ t.cfg = s.cfg ∧ t.rand = s.rand

/-- The command goes on as it was, and waits for the draw of the phase `p` (the model's control state, log
entry 3). Of RES0 and RES1 nothing is said: they are unspecified while busy (70_reset_and_hazards.md R286). -/
def waitsAt (p : Phase) (s t : State) : Prop :=
  t.phase = p ∧ t.status = s.status ∧ t.errcode = s.errcode

/-- `(c, range)` is the one case of an empty witness range, 2 and 3 under the tight range
(44_primality_tester.md R183). -/
def emptyWitnessRange (loose : Bool) (c : Nat) : Prop :=
  loose = false ∧ (c = 2 ∨ c = 3)

/-- Lower end of the witness range (44_primality_tester.md R182). -/
def witnessLo (s : State) : Nat :=
  if s.loose then 1 else 2

/-- Upper end of the witness range of the candidate in CAND (44_primality_tester.md R182). -/
def witnessHi (s : State) : Nat :=
  if s.loose then s.tst.cand - 1 else s.tst.cand - 2

/-- The random source's next answer is `v`, it lies in `[lo, hi]`, and `ws` come after it. -/
def nextAnswer (s : State) (lo hi v : Nat) (ws : List Nat) : Prop :=
  s.rand.answers = v :: ws ∧ lo ≤ v ∧ v ≤ hi

/-- The random source once it has answered the request `(lo, hi)` with `v`. -/
def answered (s : State) (lo hi v : Nat) (ws : List Nat) : RandomSource :=
  { answers := ws, log := { lo := lo, hi := hi, val := v } :: s.rand.log }

/-- A witness `a` passes one trial for `c`: `gcd(a, c) = 1` and `a^(c-1) mod c = 1` (44_primality_tester.md
R180). -/
abbrev FermatPass (c a : Nat) : Prop :=
  Nat.gcd a c = 1 ∧ a ^ (c - 1) % c = 1

/-- TRIES after one more candidate (45_prime_generator.md R203, R205). -/
def triesPlusOne (s : State) : Nat :=
  min (s.tries.toNat + 1) (2 ^ 32 - 1)

/-- KEYGEN waits for an answer, and the answer makes `c` the prime for the slot `k`: `r` is the random source and
`n` the count of candidates then. Either `c` passes its last trial, or it is drawn and accepted without a witness
(46_keypair_generator.md R217; 44_primality_tester.md R183, R184, R188). -/
inductive FindsKeyPrime (k : KeySlot) (s : State) : Nat → RandomSource → Nat → Prop where
  | lastTrial (v : Nat) (ws : List Nat) (hp : s.phase = .keyWitness k) (hc : 2 ≤ s.tst.cand)
      (ht : s.tst.trial.toNat + 1 = s.rounds.toNat) (ha : nextAnswer s (witnessLo s) (witnessHi s) v ws)
      (h : FermatPass s.tst.cand v) :
      FindsKeyPrime k s s.tst.cand (answered s (witnessLo s) (witnessHi s) v ws) s.tries.toNat
  | untested (c : Nat) (ws : List Nat) (hp : s.phase = .keyCandidate k)
      (ha : nextAnswer s (2 ^ (s.size.toNat / 2 - 1)) (2 ^ (s.size.toNat / 2) - 1) c ws) (hc : 2 ≤ c)
      (h : emptyWitnessRange s.loose c ∨ s.rounds = 0#32) :
      FindsKeyPrime k s c (answered s (2 ^ (s.size.toNat / 2 - 1)) (2 ^ (s.size.toNat / 2) - 1) c ws)
        (triesPlusOne s)

/-- `k` trials on `c` with witnesses from `[lo, hi]`, taken from the answers `ws`, reject or accept, and leave
the answers `rest` (44_primality_tester.md R184, R185). -/
inductive Trials (lo hi c : Nat) : Nat → List Nat → Bool → List Nat → Prop where
  | done (ws : List Nat) : Trials lo hi c 0 ws true ws
  | reject (k a : Nat) (ws : List Nat) (h1 : lo ≤ a) (h2 : a ≤ hi) (h : ¬ FermatPass c a) :
      Trials lo hi c (k + 1) (a :: ws) false ws
  | pass (k a : Nat) (ws rest : List Nat) (b : Bool) (h1 : lo ≤ a) (h2 : a ≤ hi) (h : FermatPass c a)
      (ht : Trials lo hi c k ws b rest) : Trials lo hi c (k + 1) (a :: ws) b rest

/-- `is_probable_prime(c, rounds)` on the answers `ws` is `b` and leaves `rest` (44_primality_tester.md R181 to
R184): below 2 false without a draw, an empty witness range true without a draw, otherwise the trials. -/
inductive ProbablePrime (loose : Bool) (rounds c : Nat) : List Nat → Bool → List Nat → Prop where
  | small (ws : List Nat) (h : c < 2) : ProbablePrime loose rounds c ws false ws
  | emptyRange (ws : List Nat) (hl : loose = false) (h : c = 2 ∨ c = 3) :
      ProbablePrime loose rounds c ws true ws
  | tight (ws rest : List Nat) (b : Bool) (hl : loose = false) (h : 4 ≤ c)
      (ht : Trials 2 (c - 2) c rounds ws b rest) : ProbablePrime loose rounds c ws b rest
  | wide (ws rest : List Nat) (b : Bool) (hl : loose = true) (h : 2 ≤ c)
      (ht : Trials 1 (c - 1) c rounds ws b rest) : ProbablePrime loose rounds c ws b rest

/-- `generate_prime(bw)` on the answers `ws` samples `n` candidates, returns `p` and leaves `rest`
(45_prime_generator.md R203): a rejected candidate is followed by a fresh one. -/
inductive GeneratesPrime (loose : Bool) (rounds bw : Nat) : List Nat → Nat → Nat → List Nat → Prop where
  | accept (c : Nat) (ws rest : List Nat) (h1 : 2 ^ (bw - 1) ≤ c) (h2 : c < 2 ^ bw)
      (h : ProbablePrime loose rounds c ws true rest) : GeneratesPrime loose rounds bw (c :: ws) 1 c rest
  | retry (c n p : Nat) (ws mid rest : List Nat) (h1 : 2 ^ (bw - 1) ≤ c) (h2 : c < 2 ^ bw)
      (h : ProbablePrime loose rounds c ws false mid)
      (hg : GeneratesPrime loose rounds bw mid n p rest) :
      GeneratesPrime loose rounds bw (c :: ws) (n + 1) p rest

/-- What the invariant says of a candidate under test: its witness range is not empty and a trial is left. -/
def testing (s : State) : Prop :=
  2 ≤ s.tst.cand ∧ (witnessRange s.loose s.tst.cand).1 ≤ (witnessRange s.loose s.tst.cand).2 ∧
    s.tst.trial.toNat < s.roundsNat

/-- A value has exactly `bw` bits (00_scope.md R11). -/
def exactBits (bw v : Nat) : Prop :=
  2 ^ (bw - 1) ≤ v ∧ v < 2 ^ bw

/-- When the second prime is being generated, P holds the first one. -/
def firstPrimeDone (k : KeySlot) (s : State) : Prop :=
  match k with
  | .p => True
  | .q => 2 ≤ s.key.p ∧ exactBits s.primeWidth s.key.p

/-- A phase other than the entry belongs to the command in OPC, whose entry check has passed, and its working
registers hold what the unit put there. -/
def phaseOk (s : State) : Prop :=
  match s.phase with
  | .entry => True
  | .testWitness => s.busy = true ∧ s.opc = 4#32 ∧ testing s
  | .genCandidate => s.busy = true ∧ s.opc = 5#32 ∧ bitWidthOk s.sizeNat = true
  | .genWitness =>
    s.busy = true ∧ s.opc = 5#32 ∧ bitWidthOk s.sizeNat = true ∧ testing s ∧ exactBits s.sizeNat s.tst.cand
  | .keyCandidate k => s.busy = true ∧ s.opc = 6#32 ∧ keySizeOk s.sizeNat = true ∧ firstPrimeDone k s
  | .keyWitness k =>
    s.busy = true ∧ s.opc = 6#32 ∧ keySizeOk s.sizeNat = true ∧ firstPrimeDone k s ∧ testing s ∧
      exactBits s.primeWidth s.tst.cand

/-- Every W-bit register holds a value below `2^W` (10_state.md R44 (a), R40). -/
structure WordsFit (s : State) : Prop where
  opa : s.opa < 2 ^ Config.W
  opb : s.opb < 2 ^ Config.W
  opm : s.opm < 2 ^ Config.W
  res0 : s.res0 < 2 ^ Config.W
  res1 : s.res1 < 2 ^ Config.W
  xAcc : s.exp.xAcc < 2 ^ Config.W
  xBase : s.exp.xBase < 2 ^ Config.W
  xExp : s.exp.xExp < 2 ^ Config.W
  rPrev : s.inv.rPrev < 2 ^ Config.W
  rCurr : s.inv.rCurr < 2 ^ Config.W
  cand : s.tst.cand < 2 ^ Config.W
  wit : s.tst.wit < 2 ^ Config.W
  p : s.key.p < 2 ^ Config.W
  q : s.key.q < 2 ^ Config.W
  phi : s.key.phi < 2 ^ Config.W
  ev : s.key.ev < 2 ^ Config.W

/-- The flags and codes agree (10_state.md R27, R44 (c) to (f)). -/
structure FlagsAgree (s : State) : Prop where
  statusReserved : s.status.toNat < 16
  cfgReserved : s.cfg.toNat < 2
  errcodeReserved : s.errcode.toNat < 8
  busyClean : s.busy = true → s.done = false ∧ s.err = false ∧ s.flag = false ∧ s.errcode = 0#32
  errDone : s.err = true → s.done = true
  flagDone : s.flag = true → s.done = true
  errCode : s.err = true ↔ s.errcode ≠ 0#32
  errZero : s.err = true → s.res0 = 0 ∧ s.res1 = 0 ∧ s.flag = false

/-- The invariant of the machine. -/
structure Inv (s : State) : Prop where
  words : WordsFit s
  flags : FlagsAgree s
  phase : phaseOk s

/-- The command in OPC is PRIMEGEN with SIZE = 1 or KEYGEN with SIZE = 2, it is running, and no reset stands in
the host's script (70_reset_and_hazards.md R293). -/
structure Hangs (s : State) : Prop where
  busy : s.busy = true
  command : (s.opc = 5#32 ∧ s.size = 1#32 ∧ (s.phase = .entry ∨ s.phase = .genCandidate)) ∨
    (s.opc = 6#32 ∧ s.size = 2#32 ∧ (s.phase = .entry ∨ s.phase = .keyCandidate .p))
  noReset : HostEvent.act .reset ∉ s.host

end Sys2Proof.Safety
end

