-- ==== Sys2Proof/Certificates/Slice0/Obligations.lean ====
section
/-! DEFINITION. The statements for the provers. Each docstring names the rule of spec/ it formalises. -/

open Sys2Proof Sys2Proof.Machine Sys2Proof.Safety

/-! ### Encoding -/

/-- The seven command words of 30_encoding.md R92, each written out from the table, decode to their commands, and
the four example words of R94 do not decode. -/
def Obligations.CommandWordsDecode : Prop :=
  decode 0x00000001#32 = .ok .modmul ∧ decode 0x00000002#32 = .ok .modexp ∧
    decode 0x00000003#32 = .ok .modinv ∧ decode 0x00000004#32 = .ok .primetest ∧
    decode 0x00000005#32 = .ok .primegen ∧ decode 0x00000006#32 = .ok .keygen ∧
    decode 0x00000007#32 = .ok .transform ∧ decode 0x00000000#32 = .error .opcodeZero ∧
    decode 0x00000008#32 = .error .opcodeReserved ∧ decode 0x0000000F#32 = .error .opcodeReserved ∧
    decode 0x00000012#32 = .error .reservedBits

/-- 30_encoding.md R93: a word selects the command with opcode `k` exactly when it equals `k`, for `k` in 1 to 7,
in the order of R92's table; every other word selects none. -/
def Obligations.WordSelectsCommandIffEqual : Prop :=
  ∀ (w : CtlWord) (i : Instr),
    decode w = .ok i ↔
      w.toNat =
        match i with
        | .modmul => 1
        | .modexp => 2
        | .modinv => 3
        | .primetest => 4
        | .primegen => 5
        | .keygen => 6
        | .transform => 7

/-- Decode and encode agree: every command's word decodes to it, and a word that decodes to a command is that
command's word (30_encoding.md R90, R92, R93). -/
def Obligations.DecodeEncodeAgree : Prop :=
  (∀ i : Instr, decode (encode i) = .ok i) ∧ ∀ (w : CtlWord) (i : Instr), decode w = .ok i → encode i = w

/-- 20_memory.md R61, R66, R78: the block's address map. Each register has the index of R61's table, each index below
12 is that one register's, the indices 12 to 15 are reserved, and there is no seventeenth index. -/
def Obligations.IndexMapFixesSixteenIndices : Prop :=
  (∀ r : RegName,
      (indexOf r).toNat =
        match r with
        | .opa => 0
        | .opb => 1
        | .opm => 2
        | .res0 => 3
        | .res1 => 4
        | .size => 5
        | .rounds => 6
        | .cfg => 7
        | .cmd => 8
        | .status => 9
        | .errcode => 10
        | .tries => 11) ∧
    (∀ (idx : RegIndex) (r : RegName), regAt idx = some r ↔ indexOf r = idx) ∧
    (∀ idx : RegIndex, regAt idx = none ↔ 12 ≤ idx.toNat) ∧
    ∀ idx : RegIndex, idx.toNat < 16

/-! ### The sequencer and the host port -/

/-- 40_sequencer.md R113: while busy, when the host has nothing left, waits, or pauses for a turn, a step is the
meaning of the command that OPC decodes to. A pause is used up by the step (log entry 4). -/
def Obligations.StepRunsDecodedCommand : Prop :=
  ∀ (s : State) (i : Instr), s.busy = true → decode s.opc = .ok i → i.wf = true →
    (s.host = [] → step s = exec i s) ∧
      (∀ rest, s.host = .wait :: rest → step s = exec i s) ∧
      (∀ rest, s.host = .pause :: rest → step s = exec i { s with host := rest })

/-- The model's own: a word placed by withFetchWord is accepted and the very next step runs it (log entry 10). -/
def Obligations.FetchedWordRuns : Prop :=
  ∀ (s : State) (w : Nat) (i : Instr), decodeTableWord 32 w = some i →
    step (s.withFetchWord 32 w) = exec i (accept (BitVec.ofNat 32 w) s)

/-- 40_sequencer.md R111: acceptance. RES0 and RES1 become unspecified, so nothing is said of them. -/
def Obligations.AcceptanceOpensBusyWindow : Prop :=
  ∀ (s : State) (v : Nat) (rest : List HostEvent), s.busy = false → v < 2 ^ Config.W →
    s.host = .act (.write 8#4 v) :: rest →
    ∃ t, step s = .next t ∧ t.opc = BitVec.ofNat 32 v ∧ t.status = 0x1#32 ∧ t.errcode = 0#32 ∧ t.tries = 0#32 ∧
      t.opa = s.opa ∧ t.opb = s.opb ∧ t.opm = s.opm ∧ t.size = s.size ∧ t.rounds = s.rounds ∧ t.cfg = s.cfg ∧
      t.rand = s.rand ∧ t.host = rest

/-- 20_memory.md R64, whole: a host write while busy has no effect at any index; while idle it stores its datum,
the low 32 bits of it, bit 0 of it, or accepts a command, by index; the other indices ignore it. Of RES0, RES1 and
the working registers after an acceptance nothing is said. -/
def Obligations.HostWriteByIndex : Prop :=
  ∀ (s : State) (idx : RegIndex) (v : Nat) (rest : List HostEvent), v < 2 ^ Config.W →
    s.host = .act (.write idx v) :: rest →
    ∃ t, step s = .next t ∧
      if s.busy then t = { s with host := rest }
      else
        match idx.toNat with
        | 0 => t = { s with host := rest, opa := v }
        | 1 => t = { s with host := rest, opb := v }
        | 2 => t = { s with host := rest, opm := v }
        | 5 => t = { s with host := rest, size := BitVec.ofNat 32 v }
        | 6 => t = { s with host := rest, rounds := BitVec.ofNat 32 v }
        | 7 => t = { s with host := rest, cfg := BitVec.ofNat 32 (v % 2) }
        | 8 =>
          acceptedWord (BitVec.ofNat 32 v) s t ∧ t.host = rest ∧ t.reads = s.reads ∧ t.fresh = s.fresh
        | _ => t = { s with host := rest }

/-- 20_memory.md R63, whole: a host read changes no register; it gives the register's value by index, 0 for CMD
and the reserved indices, and any W-bit value for RES0 or RES1 while busy. (`fresh` is the model's own counter.) -/
def Obligations.HostReadByIndex : Prop :=
  ∀ (s : State) (idx : RegIndex) (rest : List HostEvent), s.host = .act (.read idx) :: rest →
    (s.busy = true → idx.toNat = 3 ∨ idx.toNat = 4 →
        ∃ v, v < 2 ^ Config.W ∧
          step s =
            .next { s with host := rest, reads := { idx := idx, val := v } :: s.reads, fresh := s.fresh + 1 }) ∧
      (s.busy = false ∨ ¬ (idx.toNat = 3 ∨ idx.toNat = 4) →
        step s =
          .next
            { s with
              host := rest
              reads :=
                { idx := idx
                  val :=
                    match idx.toNat with
                    | 0 => s.opa
                    | 1 => s.opb
                    | 2 => s.opm
                    | 3 => s.res0
                    | 4 => s.res1
                    | 5 => s.size.toNat
                    | 6 => s.rounds.toNat
                    | 7 => s.cfg.toNat
                    | 9 => s.status.toNat
                    | 10 => s.errcode.toNat
                    | 11 => s.tries.toNat
                    | _ => 0 } :: s.reads })

/-- 20_memory.md R63, R65: every value a host reads is a W-bit value. The premise rules out states no run
reaches, in which a register holds more. -/
def Obligations.HostReadsAreWBit : Prop :=
  ∀ (s : State) (idx : RegIndex) (rest : List HostEvent), Inv s → s.host = .act (.read idx) :: rest →
    ∃ t v, step s = .next t ∧ t.reads = { idx := idx, val := v } :: s.reads ∧ v < 2 ^ Config.W

/-- The model's own refusal: a datum that does not fit the W-bit port is no transaction (20_memory.md R62, R64),
and the step refuses it by name. -/
def Obligations.TooWideDatumRefused : Prop :=
  ∀ (s : State) (idx : RegIndex) (v : Nat) (rest : List HostEvent), 2 ^ Config.W ≤ v →
    s.host = .act (.write idx v) :: rest → step s = .refused (.datumTooWide v)

/-- 40_sequencer.md R110: when idle, the sequencer does nothing: with no host event left nothing changes. That a
WAIT ends and records no read of its polling, and that there is a pause at all, is the model's choice (log
entry 4): both are used up and change nothing else. -/
def Obligations.IdleBlockDoesNothing : Prop :=
  ∀ s : State, s.busy = false →
    (s.host = [] → step s = .next s) ∧
      (∀ rest, s.host = .wait :: rest → step s = .next { s with host := rest }) ∧
      (∀ rest, s.host = .pause :: rest → step s = .next { s with host := rest })

/-- 70_reset_and_hazards.md R281: from any state, busy ones included, RESET gives every register its value. The
working registers are unspecified, so nothing is said of them. -/
def Obligations.ResetGivesSpecValues : Prop :=
  ∀ (s : State) (rest : List HostEvent), s.host = .act .reset :: rest →
    ∃ t, step s = .next t ∧ t.opa = 0 ∧ t.opb = 0 ∧ t.opm = 0 ∧ t.res0 = 0 ∧ t.res1 = 0 ∧ t.size = 0#32 ∧
      t.rounds = 1000#32 ∧ t.cfg = 0#32 ∧ t.status = 0#32 ∧ t.errcode = 0#32 ∧ t.tries = 0#32 ∧ t.opc = 0#32 ∧
      t.host = rest

/-- The state right after reset holds the values of 10_state.md R43's table. -/
def Obligations.ResetStateHoldsSpecValues : Prop :=
  State.reset.opa = 0 ∧ State.reset.opb = 0 ∧ State.reset.opm = 0 ∧ State.reset.res0 = 0 ∧
    State.reset.res1 = 0 ∧ State.reset.size = 0#32 ∧ State.reset.rounds = 1000#32 ∧ State.reset.cfg = 0#32 ∧
    State.reset.status = 0#32 ∧ State.reset.errcode = 0#32 ∧ State.reset.tries = 0#32 ∧ State.reset.opc = 0#32

/-- 70_reset_and_hazards.md R283: reset does not touch the random source. With a draw outstanding R282 leaves
open whether the source has advanced for it, so then only this is said: no answer is given twice, and the draws
made stay made. -/
def Obligations.ResetKeepsRandomSource : Prop :=
  ∀ (s : State) (rest : List HostEvent), s.host = .act .reset :: rest →
    ∃ t, step s = .next t ∧ t.rand.log = s.rand.log ∧ (drawRequest s = none → t.rand = s.rand) ∧
      (t.rand.answers = s.rand.answers ∨ t.rand.answers = s.rand.answers.tail)

/-- 30_encoding.md R94, 40_sequencer.md R114, 60_exceptions.md R255: an illegal word written to CMD while idle is
accepted and completes at once with IllegalCommand, code 5; nothing is drawn, nothing computed, TRIES stays 0. The
model's own: that this takes two steps (log entries 3 and 4), and that the working registers keep their contents,
which the spec leaves unspecified (log entry 8). -/
def Obligations.IllegalWordCompletesAtOnce : Prop :=
  ∀ (s : State) (v : Nat), s.busy = false → v < 2 ^ Config.W → s.host = [.act (.write 8#4 v)] →
    v % 2 ^ 32 = 0 ∨ 8 ≤ v % 2 ^ 32 →
    ∃ t, steps 2 s = .next t ∧ completedErr 5#32 t ∧ t.tries = 0#32 ∧ t.rand = s.rand ∧
      t.opc = BitVec.ofNat 32 v ∧ t.opa = s.opa ∧ t.opb = s.opb ∧ t.opm = s.opm ∧ t.size = s.size ∧
      t.rounds = s.rounds ∧ t.cfg = s.cfg ∧ t.exp = s.exp ∧ t.inv = s.inv ∧ t.tst = s.tst ∧ t.key = s.key

/-- 70_reset_and_hazards.md R285: "a command's inputs cannot change under it". Whatever the host does while the
block is busy, reset apart, the operand and configuration registers and OPC keep their values. -/
def Obligations.BusyInputsStable : Prop :=
  ∀ s t : State, s.busy = true → s.host.head? ≠ some (.act .reset) → step s = .next t → sameInputs s t

/-- 60_exceptions.md R260: STATUS and ERRCODE (and the results) of an idle block stay as they are until the
acceptance of a command or reset; nothing else, reading included, changes them. -/
def Obligations.CompletionStateLasts : Prop :=
  ∀ s t : State, s.busy = false → step s = .next t → s.host.head? ≠ some (.act .reset) →
    (∀ v, s.host.head? ≠ some (.act (.write 8#4 v))) →
    t.status = s.status ∧ t.errcode = s.errcode ∧ t.res0 = s.res0 ∧ t.res1 = s.res1

/-! ### The draw port -/

/-- 20_memory.md R72: a step makes at most one draw, within its range, and only while the block is busy with
PRIMETEST, PRIMEGEN or KEYGEN. Every other step leaves the random source as it is, answers included, but for a
reset: it draws nothing, and whether a draw it abandons has advanced the source is left open
(70_reset_and_hazards.md R282; log entry 9). -/
def Obligations.DrawsOnlyInDrawingCommands : Prop :=
  ∀ s t : State, step s = .next t →
    t.rand = s.rand ∨
      (s.host.head? = some (.act .reset) ∧ t.rand.log = s.rand.log) ∨
      (s.busy = true ∧ (s.opc = 4#32 ∨ s.opc = 5#32 ∨ s.opc = 6#32) ∧
        ∃ lo hi v ws, nextAnswer s lo hi v ws ∧ t.rand = answered s lo hi v ws)

/-- 20_memory.md R70: the sequencer issues a draw only with `lo <= hi < 2^W`. The premise rules out states no run
reaches. -/
def Obligations.DrawRequestsAreLegal : Prop :=
  ∀ (s : State) (lo hi : Nat), Inv s → drawRequest s = some (lo, hi) → lo ≤ hi ∧ hi < 2 ^ Config.W

/-- 20_memory.md R73: a draw that is never answered leaves the sequencer waiting for ever with BUSY = 1; an
answer outside the range is undefined behaviour, at which the model stops by name. -/
def Obligations.UnansweredDrawWaitsForEver : Prop :=
  ∀ (s : State) (lo hi : Nat), Inv s → s.host = [] → drawRequest s = some (lo, hi) →
    (s.rand.answers = [] → ∀ n, steps n s = .next s ∧ s.busy = true) ∧
      ∀ v ws, s.rand.answers = v :: ws → ¬ (lo ≤ v ∧ v ≤ hi) → step s = .fault (.drawOutOfContract lo hi v)

/-- 20_memory.md R70: every answer in the requested range is taken, whatever it is: the step goes on, and the
random source has advanced by that draw. -/
def Obligations.EveryLegalAnswerIsTaken : Prop :=
  ∀ (s : State) (lo hi v : Nat) (ws : List Nat), Inv s → s.host = [] → drawRequest s = some (lo, hi) →
    nextAnswer s lo hi v ws → ∃ t, step s = .next t ∧ t.rand = answered s lo hi v ws

/-! ### MODMUL, MODEXP, MODINV, TRANSFORM -/

/-- 41_modular_multiplier.md R131: the result, or ModulusTooSmall for `OPM = 0`; no draw, TRIES and the inputs
unchanged. Of the working registers nothing is said: they are unspecified after a completion. -/
def Obligations.ModmulResult : Prop :=
  ∀ s : State, ∃ t, exec .modmul s = .next t ∧ sameInputs s t ∧ sameHost s t ∧ t.rand = s.rand ∧
    t.tries = s.tries ∧
    (s.opm ≠ 0 → completedOk false (s.opa * s.opb % s.opm) 0 t) ∧
    (s.opm = 0 → completedErr 3#32 t)

/-- 42_modular_exponentiation.md R142, R140: RES0 is `OPA ^ OPB mod OPM`; ModulusTooSmall for `OPM = 0`; no draw,
TRIES and the inputs unchanged. Of the working registers nothing is said. -/
def Obligations.ModexpResult : Prop :=
  ∀ s : State, ∃ t, exec .modexp s = .next t ∧ sameInputs s t ∧ sameHost s t ∧ t.rand = s.rand ∧
    t.tries = s.tries ∧
    (s.opm ≠ 0 → completedOk false (s.opa ^ s.opb % s.opm) 0 t) ∧
    (s.opm = 0 → completedErr 3#32 t)

/-- 43_modular_inverse.md R165, R160: for coprime operands RES0 is the one inverse in `[0, OPM)`; otherwise
NoInverseExists; ModulusTooSmall for `OPM = 0` whatever OPA is (60_exceptions.md R258); no draw, TRIES and the
inputs unchanged. Of the working registers nothing is said. -/
def Obligations.ModinvResult : Prop :=
  ∀ s : State, ∃ t, exec .modinv s = .next t ∧ sameInputs s t ∧ sameHost s t ∧ t.rand = s.rand ∧
    t.tries = s.tries ∧
    (s.opm ≠ 0 → Nat.gcd s.opa s.opm = 1 →
      ∃ x, completedOk false x 0 t ∧ x < s.opm ∧ x * s.opa % s.opm = 1 % s.opm ∧
        ∀ y, y < s.opm → y * s.opa % s.opm = 1 % s.opm → y = x) ∧
    (s.opm ≠ 0 → Nat.gcd s.opa s.opm ≠ 1 → completedErr 2#32 t) ∧
    (s.opm = 0 → completedErr 3#32 t)

/-- 47_cipher_transform.md R235, R241: RES0 is `OPA ^ OPB mod OPM`, with no range check on the payload;
ModulusTooSmall for `OPM = 0`; no draw, TRIES and the inputs unchanged; and TRANSFORM does from every state what
MODEXP does. Of the working registers nothing else is said. -/
def Obligations.TransformResult : Prop :=
  ∀ s : State, ∃ t, exec .transform s = .next t ∧ sameInputs s t ∧ sameHost s t ∧ t.rand = s.rand ∧
    t.tries = s.tries ∧
    (s.opm ≠ 0 → completedOk false (s.opa ^ s.opb % s.opm) 0 t) ∧
    (s.opm = 0 → completedErr 3#32 t) ∧
    exec .modexp s = .next t

/-- 47_cipher_transform.md R240: under a valid key, transforming with one exponent and then with the other gives
the payload back. (Exchange `e` and `d` for sign-then-verify.) -/
def Obligations.RsaRoundTrip : Prop :=
  ∀ (s : State) (p q e d m : Nat), p.Prime → q.Prime → p ≠ q → d * e ≡ 1 [MOD (p - 1) * (q - 1)] → m < p * q →
    ∃ t u, exec .transform { s with opa := m, opb := e, opm := p * q } = .next t ∧ t.res0 = m ^ e % (p * q) ∧
      exec .transform { t with opa := t.res0, opb := d } = .next u ∧ u.status = 0x2#32 ∧ u.res0 = m

/-- 30_encoding.md R98, 47_cipher_transform.md R236 to R239: each pseudo-command, performed by an idle block,
leaves its three operands in OPA, OPB and OPM and `a ^ b mod n` in RES0, or ends with ModulusTooSmall for `n = 0`
(R235). That this takes five steps is the model's (log entries 3 and 4). -/
def Obligations.PseudoCommandsTransform : Prop :=
  ∀ (s : State) (a b n : Nat) (c : HostStmt),
    c ∈ [HostStmt.encrypt a b n, HostStmt.decrypt a b n, HostStmt.sign a b n, HostStmt.verify a b n] →
    s.busy = false → s.host = expandStmt c → a < 2 ^ Config.W → b < 2 ^ Config.W → n < 2 ^ Config.W →
    ∃ t, steps 5 s = .next t ∧ (n ≠ 0 → completedOk false (a ^ b % n) 0 t) ∧ (n = 0 → completedErr 3#32 t) ∧
      t.opa = a ∧ t.opb = b ∧ t.opm = n ∧ t.opc = 7#32 ∧ t.host = [] ∧ t.rand = s.rand ∧ t.size = s.size ∧
      t.rounds = s.rounds ∧ t.cfg = s.cfg

/-- 42_modular_exponentiation.md R141's loop invariant, after any number `k` of iterations. -/
def Obligations.ModPowLoopInvariant : Prop :=
  ∀ b e m k : Nat, 2 ≤ m →
    let r := (expStep m)^[k] (expInit b e m)
    r.xBase = (b % m) ^ 2 ^ k % m ∧ r.xExp = e / 2 ^ k ∧ r.xAcc = (b % m) ^ (e % 2 ^ k) % m

/-- 42_modular_exponentiation.md R144: the loop runs exactly `bitlen(exponent)` iterations: before that many
X_EXP is not 0, after them it is, and more fuel changes nothing. -/
def Obligations.ModPowRunsBitlenIterations : Prop :=
  ∀ b e m : Nat,
    (∀ k, k < bitlen e → ((expStep m)^[k] (expInit b e m)).xExp ≠ 0) ∧
      ((expStep m)^[bitlen e] (expInit b e m)).xExp = 0 ∧
      ∀ fuel, bitlen e ≤ fuel → expLoop m fuel (expInit b e m) = (expStep m)^[bitlen e] (expInit b e m)

/-- 43_modular_inverse.md R162's invariant, from the initial values of R161 and after any number of iterations. -/
def Obligations.EuclidLoopInvariant : Prop :=
  ∀ value modulus k : Nat,
    let r := euclidStep^[k] (euclidInit value modulus)
    r.tPrev * value ≡ r.rPrev [ZMOD modulus] ∧ r.tCurr * value ≡ r.rCurr [ZMOD modulus]

/-! ### PRIMETEST -/

/-- 44_primality_tester.md R181, R183, R188, from the entry of the command: below 2 rejected without a draw; an
empty range, or ROUNDS = 0, accepted without a draw; otherwise the loop of R184 begins: the unit holds the
candidate, TRIAL = 0, and requests its first witness. The entry and the wait are the model's phases (log
entry 3). -/
def Obligations.PrimetestEntry : Prop :=
  ∀ s : State, s.phase = .entry →
    ∃ t, exec .primetest s = .next t ∧ sameInputs s t ∧ sameHost s t ∧ t.rand = s.rand ∧ t.tries = s.tries ∧
      (s.opa < 2 → completedOk false 0 0 t) ∧
      (2 ≤ s.opa → emptyWitnessRange s.loose s.opa ∨ s.rounds = 0#32 → completedOk true 0 0 t) ∧
      (2 ≤ s.opa → ¬ emptyWitnessRange s.loose s.opa → s.rounds ≠ 0#32 →
        waitsAt .testWitness s t ∧ t.tst.cand = s.opa ∧ t.tst.trial = 0#32)

/-- 44_primality_tester.md R184, R185: one trial. A witness that fails completes with FLAG = 0 at once; one that
passes counts, and after the last round the command completes with FLAG = 1. The wait is the model's phase (log
entry 3). -/
def Obligations.PrimetestTrial : Prop :=
  ∀ (s : State) (v : Nat) (ws : List Nat), s.phase = .testWitness → 2 ≤ s.tst.cand →
    s.tst.trial.toNat < s.rounds.toNat → nextAnswer s (witnessLo s) (witnessHi s) v ws →
    ∃ t, exec .primetest s = .next t ∧ sameInputs s t ∧ sameHost s t ∧ t.tries = s.tries ∧
      t.rand = answered s (witnessLo s) (witnessHi s) v ws ∧
      (¬ FermatPass s.tst.cand v → completedOk false 0 0 t) ∧
      (FermatPass s.tst.cand v → s.tst.trial.toNat + 1 = s.rounds.toNat → completedOk true 0 0 t) ∧
      (FermatPass s.tst.cand v → s.tst.trial.toNat + 1 < s.rounds.toNat →
        waitsAt .testWitness s t ∧ t.tst.cand = s.tst.cand ∧ t.tst.wit = v ∧
          t.tst.trial.toNat = s.tst.trial.toNat + 1)

/-- 44_primality_tester.md R189 (a): a prime candidate is accepted whatever the draws are: a PRIMETEST of a prime
that completes has FLAG = 1. -/
def Obligations.PrimeNeverRejected : Prop :=
  ∀ (s t : State) (n : Nat), s.busy = true → s.opc = 4#32 → s.phase = .entry → s.host = [] → s.opa.Prime →
    steps n s = .next t → t.busy = false → t.flag = true ∧ t.err = false

/-- 44_primality_tester.md R184 to R188: the steps of PRIMETEST are the function `is_probable_prime` of R184 on
the random source's answers: when that function answers `b`, the command completes with FLAG = b, has consumed
exactly the function's draws, and has changed no input and not TRIES. -/
def Obligations.PrimetestRefinesTest : Prop :=
  ∀ (s : State) (b : Bool) (rest : List Nat), s.busy = true → s.opc = 4#32 → s.phase = .entry → s.host = [] →
    ProbablePrime s.loose s.roundsNat s.opa s.rand.answers b rest →
    ∃ n t, steps n s = .next t ∧ completedOk b 0 0 t ∧ t.rand.answers = rest ∧ t.tries = s.tries ∧
      sameInputs s t ∧ sameHost s t

/-! ### PRIMEGEN -/

/-- 45_prime_generator.md R201: the width check, made before any draw; a width that passes waits for a first
candidate with TRIES = 0 (R203). The entry and the wait are the model's phases (log entry 3). -/
def Obligations.PrimegenEntry : Prop :=
  ∀ s : State, s.phase = .entry →
    ∃ t, exec .primegen s = .next t ∧ sameInputs s t ∧ sameHost s t ∧ t.rand = s.rand ∧
      (s.size.toNat = 0 ∨ Config.W < s.size.toNat → completedErr 1#32 t ∧ t.tries = s.tries) ∧
      (s.size.toNat ≠ 0 → s.size.toNat ≤ Config.W → waitsAt .genCandidate s t ∧ t.tries = 0#32)

/-- 45_prime_generator.md R202, R203, R205: one candidate is one draw of exactly SIZE bits; TRIES counts it with
the draw and saturates. A candidate below 2 is followed by a fresh one; one the tester accepts without a witness
is returned; otherwise its first witness is awaited. The waits are the model's phases (log entry 3). -/
def Obligations.PrimegenCandidate : Prop :=
  ∀ (s : State) (c : Nat) (ws : List Nat), s.phase = .genCandidate → s.size ≠ 0#32 →
    nextAnswer s (2 ^ (s.size.toNat - 1)) (2 ^ s.size.toNat - 1) c ws →
    ∃ t, exec .primegen s = .next t ∧ sameInputs s t ∧ sameHost s t ∧ t.tries.toNat = triesPlusOne s ∧
      t.rand = answered s (2 ^ (s.size.toNat - 1)) (2 ^ s.size.toNat - 1) c ws ∧
      (c < 2 → waitsAt .genCandidate s t) ∧
      (2 ≤ c → emptyWitnessRange s.loose c ∨ s.rounds = 0#32 → completedOk false c 0 t) ∧
      (2 ≤ c → ¬ emptyWitnessRange s.loose c → s.rounds ≠ 0#32 →
        waitsAt .genWitness s t ∧ t.tst.cand = c ∧ t.tst.trial = 0#32)

/-- 45_prime_generator.md R203: one trial of a candidate. A rejected candidate is followed by a fresh draw; a
candidate that passes its last round is returned in RES0. The waits are the model's phases (log entry 3). -/
def Obligations.PrimegenTrial : Prop :=
  ∀ (s : State) (v : Nat) (ws : List Nat), s.phase = .genWitness → 2 ≤ s.tst.cand →
    s.tst.trial.toNat < s.rounds.toNat → nextAnswer s (witnessLo s) (witnessHi s) v ws →
    ∃ t, exec .primegen s = .next t ∧ sameInputs s t ∧ sameHost s t ∧ t.tries = s.tries ∧
      t.rand = answered s (witnessLo s) (witnessHi s) v ws ∧
      (¬ FermatPass s.tst.cand v → waitsAt .genCandidate s t) ∧
      (FermatPass s.tst.cand v → s.tst.trial.toNat + 1 = s.rounds.toNat →
        completedOk false s.tst.cand 0 t) ∧
      (FermatPass s.tst.cand v → s.tst.trial.toNat + 1 < s.rounds.toNat →
        waitsAt .genWitness s t ∧ t.tst.cand = s.tst.cand ∧ t.tst.wit = v ∧
          t.tst.trial.toNat = s.tst.trial.toNat + 1)

/-- 45_prime_generator.md R208: the value PRIMEGEN returns has exactly SIZE bits. The premise rules out states no
run reaches. -/
def Obligations.PrimegenResultHasSizeBits : Prop :=
  ∀ s t : State, Inv s → s.busy = true → s.opc = 5#32 → exec .primegen s = .next t → t.busy = false →
    t.err = false → bitlen t.res0 = s.size.toNat ∧ t.res1 = 0

/-- 45_prime_generator.md R203 to R205: the steps of PRIMEGEN are the function `generate_prime` of R203 on the
random source's answers. -/
def Obligations.PrimegenRefinesGenerator : Prop :=
  ∀ (s : State) (n p : Nat) (rest : List Nat), s.busy = true → s.opc = 5#32 → s.phase = .entry → s.host = [] →
    s.size.toNat ≠ 0 → s.size.toNat ≤ Config.W →
    GeneratesPrime s.loose s.roundsNat s.size.toNat s.rand.answers n p rest →
    ∃ k t, steps k s = .next t ∧ completedOk false p 0 t ∧ t.tries.toNat = min n (2 ^ 32 - 1) ∧
      t.rand.answers = rest ∧ sameInputs s t ∧ sameHost s t

/-- 70_reset_and_hazards.md R293 (45_prime_generator.md R206): PRIMEGEN with SIZE = 1 and KEYGEN with SIZE = 2
never complete, whatever the host does short of reset and whatever the random source answers. -/
def Obligations.HangingConfigurationsStayBusy : Prop :=
  ∀ (s t : State) (n : Nat), Hangs s → steps n s = .next t → t.busy = true

/-! ### KEYGEN -/

/-- 46_keypair_generator.md R216: the key-size check, made before any draw; a size that passes waits for a first
candidate for P with TRIES = 0 (R217; 45_prime_generator.md R203). The entry and the wait are the model's phases
(log entry 3). -/
def Obligations.KeygenEntry : Prop :=
  ∀ s : State, s.phase = .entry →
    ∃ t, exec .keygen s = .next t ∧ sameInputs s t ∧ sameHost s t ∧ t.rand = s.rand ∧
      (s.size.toNat = 0 ∨ s.size.toNat % 2 = 1 ∨ Config.W < s.size.toNat →
        completedErr 1#32 t ∧ t.tries = s.tries) ∧
      (s.size.toNat ≠ 0 → s.size.toNat % 2 = 0 → s.size.toNat ≤ Config.W →
        waitsAt (.keyCandidate .p) s t ∧ t.tries = 0#32)

/-- 46_keypair_generator.md R217, 45_prime_generator.md R202, R203, R205: one candidate of KEYGEN, for either
prime, is one draw of exactly SIZE/2 bits; TRIES counts it with the draw and saturates. A candidate below 2 is
followed by a fresh one; a candidate to be tested waits for its first witness. P, once found, stays while Q is
sought. (A candidate accepted without a witness: KeygenFirstPrime and KeygenFinish.) The waits are the model's
phases (log entry 3). -/
def Obligations.KeygenCandidate : Prop :=
  ∀ (s : State) (k : KeySlot) (c : Nat) (ws : List Nat), s.phase = .keyCandidate k →
    nextAnswer s (2 ^ (s.size.toNat / 2 - 1)) (2 ^ (s.size.toNat / 2) - 1) c ws →
    c < 2 ∨ (¬ emptyWitnessRange s.loose c ∧ s.rounds ≠ 0#32) →
    ∃ t, exec .keygen s = .next t ∧ sameInputs s t ∧ sameHost s t ∧ t.tries.toNat = triesPlusOne s ∧
      t.rand = answered s (2 ^ (s.size.toNat / 2 - 1)) (2 ^ (s.size.toNat / 2) - 1) c ws ∧
      (k = .q → t.key.p = s.key.p) ∧
      (c < 2 → waitsAt (.keyCandidate k) s t) ∧
      (2 ≤ c → waitsAt (.keyWitness k) s t ∧ t.tst.cand = c ∧ t.tst.trial = 0#32)

/-- 46_keypair_generator.md R217, 44_primality_tester.md R184, 45_prime_generator.md R203: one trial of a candidate
of KEYGEN, for either prime, that fails or is not the last: a failing witness discards the candidate and a fresh
one is awaited; a passing one counts and the next witness is awaited. TRIES stays; P, once found, stays while Q is
sought. (A last trial that passes: KeygenFirstPrime and KeygenFinish.) The waits are the model's phases (log
entry 3). -/
def Obligations.KeygenTrial : Prop :=
  ∀ (s : State) (k : KeySlot) (v : Nat) (ws : List Nat), s.phase = .keyWitness k → 2 ≤ s.tst.cand →
    s.tst.trial.toNat < s.rounds.toNat → nextAnswer s (witnessLo s) (witnessHi s) v ws →
    ¬ FermatPass s.tst.cand v ∨ s.tst.trial.toNat + 1 < s.rounds.toNat →
    ∃ t, exec .keygen s = .next t ∧ sameInputs s t ∧ sameHost s t ∧ t.tries = s.tries ∧
      t.rand = answered s (witnessLo s) (witnessHi s) v ws ∧
      (k = .q → t.key.p = s.key.p) ∧
      (¬ FermatPass s.tst.cand v → waitsAt (.keyCandidate k) s t) ∧
      (FermatPass s.tst.cand v →
        waitsAt (.keyWitness k) s t ∧ t.tst.cand = s.tst.cand ∧ t.tst.wit = v ∧
          t.tst.trial.toNat = s.tst.trial.toNat + 1)

/-- 46_keypair_generator.md R217: the candidate that passes its last round while P is generated, or that is accepted
without a witness, becomes P; then Q is generated afresh, with TRIES cleared. The wait is the model's phase (log
entry 3). -/
def Obligations.KeygenFirstPrime : Prop :=
  ∀ (s : State) (c : Nat) (r : RandomSource) (n : Nat), FindsKeyPrime .p s c r n →
    ∃ t, exec .keygen s = .next t ∧ sameInputs s t ∧ sameHost s t ∧ t.rand = r ∧ t.key.p = c ∧
      t.tries = 0#32 ∧ waitsAt (.keyCandidate .q) s t

/-- 46_keypair_generator.md R218 to R221, R226, 60_exceptions.md R254: the candidate that passes its last round
while Q is generated, or that is accepted without a witness, becomes Q, and the key is derived: `n = P * Q` and the
inverse of OPA modulo `(P - 1) * (Q - 1)` when there is one, KeyGenerationFailed otherwise. TRIES keeps the count
for Q. -/
def Obligations.KeygenFinish : Prop :=
  ∀ (s : State) (c : Nat) (r : RandomSource) (n : Nat), FindsKeyPrime .q s c r n → 2 ≤ s.key.p →
    let phi := (s.key.p - 1) * (c - 1)
    ∃ t, exec .keygen s = .next t ∧ sameInputs s t ∧ sameHost s t ∧ t.rand = r ∧ t.tries.toNat = n ∧
      (Nat.gcd s.opa phi = 1 →
        ∃ d, completedOk false (s.key.p * c) d t ∧ d < phi ∧ d * s.opa % phi = 1 % phi) ∧
      (Nat.gcd s.opa phi ≠ 1 → completedErr 4#32 t)

/-- 46_keypair_generator.md R225: the modulus KEYGEN returns has SIZE or SIZE - 1 bits. The premise rules out
states no run reaches. -/
def Obligations.KeyModulusBitLength : Prop :=
  ∀ s t : State, Inv s → s.busy = true → s.opc = 6#32 → exec .keygen s = .next t → t.busy = false →
    t.err = false → s.size.toNat - 1 ≤ bitlen t.res0 ∧ bitlen t.res0 ≤ s.size.toNat

/-- 46_keypair_generator.md R215 to R223, R226: the steps of KEYGEN are: `generate_prime` twice on the random
source's answers, P first, then the key or KeyGenerationFailed, with no retry. -/
def Obligations.KeygenRefinesKeyGeneration : Prop :=
  ∀ (s : State) (n1 n2 p q : Nat) (mid rest : List Nat), s.busy = true → s.opc = 6#32 → s.phase = .entry →
    s.host = [] → s.size.toNat ≠ 0 → s.size.toNat % 2 = 0 → s.size.toNat ≤ Config.W →
    GeneratesPrime s.loose s.roundsNat (s.size.toNat / 2) s.rand.answers n1 p mid →
    GeneratesPrime s.loose s.roundsNat (s.size.toNat / 2) mid n2 q rest →
    ∃ k t, steps k s = .next t ∧ t.rand.answers = rest ∧ t.tries.toNat = min n2 (2 ^ 32 - 1) ∧ sameInputs s t ∧
      sameHost s t ∧
      (Nat.gcd s.opa ((p - 1) * (q - 1)) = 1 →
        ∃ d, completedOk false (p * q) d t ∧ d < (p - 1) * (q - 1) ∧
          d * s.opa % ((p - 1) * (q - 1)) = 1 % ((p - 1) * (q - 1))) ∧
      (Nat.gcd s.opa ((p - 1) * (q - 1)) ≠ 1 → completedErr 4#32 t)

/-! ### The whole machine -/

/-- The state right after reset meets the invariant. -/
def Obligations.ResetMeetsInvariant : Prop :=
  Inv State.reset

/-- 10_state.md R44, R40: every step keeps the invariant: every W-bit register, working registers included, stays
below `2^W`; the flags and codes agree; the phase belongs to the command in OPC. -/
def Obligations.EveryStepKeepsInvariant : Prop :=
  ∀ s t : State, Inv s → step s = .next t → Inv t

/-- 10_state.md R21, R25, R30, R31, R32: no command changes an operand or configuration register or OPC, nor
anything of the host's. -/
def Obligations.CommandsKeepInputs : Prop :=
  ∀ (i : Instr) (s t : State), exec i s = .next t → sameInputs s t ∧ sameHost s t

/-- 40_sequencer.md R118: no result of an earlier command survives a completion: what RES0 and RES1 held before
has no influence on the state after. -/
def Obligations.NoOldResultSurvives : Prop :=
  ∀ (i : Instr) (s t : State) (a b : Nat), s.busy = true → exec i s = .next t → t.busy = false →
    exec i { s with res0 := a, res1 := b } = .next t

/-- The model's own frame (log entry 8): while a command goes on RES0 and RES1 keep their contents, which the spec
calls unspecified, and a command changes no working registers but those of the units it invokes
(40_sequencer.md R115); a command that fails its entry check changes none. -/
def Obligations.UnitsKeepOtherRegisters : Prop :=
  ∀ (i : Instr) (s t : State), exec i s = .next t →
    (t.busy = true → t.res0 = s.res0 ∧ t.res1 = s.res1) ∧
      match i with
      | .modmul => t.exp = s.exp ∧ t.inv = s.inv ∧ t.tst = s.tst ∧ t.key = s.key
      | .modexp | .transform =>
        t.inv = s.inv ∧ t.tst = s.tst ∧ t.key = s.key ∧ (s.opm = 0 → t.exp = s.exp)
      | .modinv => t.exp = s.exp ∧ t.tst = s.tst ∧ t.key = s.key ∧ (s.opm = 0 → t.inv = s.inv)
      | .primetest => t.key = s.key
      | .primegen =>
        t.key = s.key ∧ (s.phase = .entry → t.exp = s.exp ∧ t.inv = s.inv ∧ t.tst = s.tst)
      | .keygen =>
        s.phase = .entry → t.exp = s.exp ∧ t.inv = s.inv ∧ t.tst = s.tst ∧ t.key = s.key

/-- 10_state.md R34: the working registers are never seen: whatever they hold when a command is at its entry, or
while the block is idle, the host sees the same of every later run. -/
def Obligations.HiddenRegistersNeverSeen : Prop :=
  ∀ (n : Nat) (s : State) (e : ExpRegs) (v : InvRegs) (u : TesterRegs) (k : KeyRegs), s.phase = .entry →
    mapNext eraseScratch (steps n (withScratch e v u k s)) = mapNext eraseScratch (steps n s)

/-- 60_exceptions.md R250, R256: a command completes with an error only of its own kinds, and then both results
and FLAG are 0. The premise rules out states no run reaches. -/
def Obligations.ErrorKindsPerCommand : Prop :=
  ∀ (i : Instr) (s t : State), Inv s → s.busy = true → exec i s = .next t → t.err = true →
    completedErr t.errcode t ∧
      t.errcode ∈
        (match i with
        | .modmul => [3#32]
        | .modexp => [3#32]
        | .modinv => [3#32, 2#32]
        | .primetest => []
        | .primegen => [1#32]
        | .keygen => [1#32, 4#32]
        | .transform => [3#32])

/-- 40_sequencer.md R120, 20_memory.md R72: the four commands that do not draw complete, from every state, and leave
the random source and TRIES alone. That one step does it is the model's choice of step size (log entry 3), which
R119 permits and does not ask for. -/
def Obligations.DrawFreeCommandsComplete : Prop :=
  ∀ (i : Instr) (s : State), drawing i = false →
    ∃ t, exec i s = .next t ∧ t.busy = false ∧ t.done = true ∧ t.rand = s.rand ∧ t.tries = s.tries
end

