-- ==== Sys2Proof/Laws/Words.lean ====
section
/-! SUPPORT. Bit lengths, widths, the saturating count, and the size checks, pushed down to arithmetic. -/

namespace Sys2Proof

/-- R11's bit length is the least `k` with `v < 2^k`. -/
theorem bitlen_le_iff (v k : Nat) : bitlen v ≤ k ↔ v < 2 ^ k := by
  unfold bitlen
  split
  · next h => subst h; simp
  · next h => rw [Nat.add_one_le_iff, Nat.log2_lt h]

theorem lt_two_pow_bitlen (v : Nat) : v < 2 ^ bitlen v :=
  (bitlen_le_iff v _).mp le_rfl

/-- The port check says that the datum is below `2^W`. -/
theorem fitsW_iff (v : Nat) : fitsW v = true ↔ v < 2 ^ Config.W := by
  simp [fitsW, bitlen_le_iff]

theorem width_ge : 2048 ≤ Config.W := by
  unfold Config.W; omega

/-- A 32-bit value fits a W-bit register. -/
theorem two_pow_32_le : 2 ^ 32 ≤ 2 ^ Config.W :=
  Nat.pow_le_pow_right (by decide) (le_trans (by decide) width_ge)

namespace Machine

theorem bitWidthOk_iff (n : Nat) : bitWidthOk n = true ↔ n ≠ 0 ∧ n ≤ Config.W := by
  simp [bitWidthOk]

theorem keySizeOk_iff (n : Nat) : keySizeOk n = true ↔ n ≠ 0 ∧ n % 2 = 0 ∧ n ≤ Config.W := by
  simp [keySizeOk, and_assoc]

/-- TRIES counts up and stays at `2^32 - 1`. -/
theorem bumpTries_toNat (t : CtlWord) : (bumpTries t).toNat = min (t.toNat + 1) (2 ^ 32 - 1) := by
  unfold bumpTries
  split
  · next h => subst h; rfl
  · next h =>
    have hlt := t.isLt
    have hne : t.toNat ≠ 2 ^ 32 - 1 := fun h' => h (BitVec.eq_of_toNat_eq (by simpa using h'))
    rw [BitVec.toNat_add]
    simp only [BitVec.toNat_ofNat]
    omega

theorem witnessRange_tight (c : Nat) : witnessRange false c = (2, c - 2) := rfl

theorem witnessRange_loose (c : Nat) : witnessRange true c = (1, c - 1) := rfl

/-- The tester's witness range is never above the candidate. -/
theorem witnessRange_le (l : Bool) (c : Nat) : (witnessRange l c).2 ≤ c := by
  cases l <;> simp [witnessRange]

/-- Only 2 and 3 have an empty range, under the tight one (44_primality_tester.md R183). -/
theorem witnessRange_empty_iff (l : Bool) (c : Nat) (h : 2 ≤ c) :
    (witnessRange l c).2 < (witnessRange l c).1 ↔ l = false ∧ (c = 2 ∨ c = 3) := by
  cases l <;> simp [witnessRange] <;> omega

end Machine

end Sys2Proof
end

