-- ==== Sys2Proof/Laws/Exponentiation.lean ====
section
/-! SUPPORT. What the exponentiation engine computes: `base ^ exponent mod m`. -/

namespace Sys2Proof.Machine

/-- One iteration keeps `X_ACC * X_BASE ^ X_EXP` modulo `m`. -/
theorem expStep_keeps (m : Nat) (r : ExpRegs) :
    (expStep m r).xAcc * (expStep m r).xBase ^ (expStep m r).xExp % m = r.xAcc * r.xBase ^ r.xExp % m := by
  have hsq : (r.xBase * r.xBase % m) ^ (r.xExp / 2) ≡ r.xBase ^ (2 * (r.xExp / 2)) [MOD m] := by
    rw [pow_mul, pow_two]
    exact (Nat.mod_modEq _ _).pow _
  have hdiv : r.xExp = 2 * (r.xExp / 2) + r.xExp % 2 := (Nat.div_add_mod _ 2).symm
  unfold expStep modMul
  show _ ≡ _ [MOD m]
  simp only []
  split
  · next h =>
    calc (r.xAcc * r.xBase % m) * (r.xBase * r.xBase % m) ^ (r.xExp / 2)
        ≡ (r.xAcc * r.xBase) * r.xBase ^ (2 * (r.xExp / 2)) [MOD m] := (Nat.mod_modEq _ _).mul hsq
      _ = r.xAcc * r.xBase ^ (2 * (r.xExp / 2) + r.xExp % 2) := by rw [h, pow_succ]; ring
      _ = r.xAcc * r.xBase ^ r.xExp := by rw [← hdiv]
  · next h =>
    have h0 : r.xExp % 2 = 0 := by omega
    calc r.xAcc * (r.xBase * r.xBase % m) ^ (r.xExp / 2)
        ≡ r.xAcc * r.xBase ^ (2 * (r.xExp / 2)) [MOD m] := Nat.ModEq.rfl.mul hsq
      _ = r.xAcc * r.xBase ^ (2 * (r.xExp / 2) + r.xExp % 2) := by rw [h0, Nat.add_zero]
      _ = r.xAcc * r.xBase ^ r.xExp := by rw [← hdiv]

theorem expStep_xExp_lt {m : Nat} {r : ExpRegs} {k : Nat} (h : r.xExp < 2 ^ (k + 1)) :
    (expStep m r).xExp < 2 ^ k := by
  show r.xExp / 2 < 2 ^ k
  rw [pow_succ] at h
  omega

/-- With enough iterations the loop ends with X_EXP = 0, and has kept `X_ACC * X_BASE ^ X_EXP` modulo `m`. -/
theorem expLoop_spec (m : Nat) (fuel : Nat) (r : ExpRegs) (h : r.xExp < 2 ^ fuel) :
    (expLoop m fuel r).xExp = 0 ∧ (expLoop m fuel r).xAcc % m = r.xAcc * r.xBase ^ r.xExp % m := by
  induction fuel generalizing r with
  | zero =>
    have h0 : r.xExp = 0 := by simpa using h
    simp [expLoop, h0]
  | succ k ih =>
    unfold expLoop
    split
    · next h0 => simp [h0]
    · obtain ⟨h1, h2⟩ := ih (expStep m r) (expStep_xExp_lt h)
      exact ⟨h1, h2.trans (expStep_keeps m r)⟩

/-- Registers below a modulus stay below it, and the exponent never grows. -/
theorem expLoop_bounds (m : Nat) (hm : 0 < m) (fuel : Nat) (r : ExpRegs) (ha : r.xAcc < m) (hb : r.xBase < m) :
    (expLoop m fuel r).xAcc < m ∧ (expLoop m fuel r).xBase < m ∧ (expLoop m fuel r).xExp ≤ r.xExp := by
  induction fuel generalizing r with
  | zero => exact ⟨ha, hb, le_rfl⟩
  | succ k ih =>
    unfold expLoop
    split
    · exact ⟨ha, hb, le_rfl⟩
    · have h1 : (expStep m r).xAcc < m := by
        unfold expStep modMul
        simp only []
        split
        · exact Nat.mod_lt _ hm
        · exact ha
      obtain ⟨i1, i2, i3⟩ := ih (expStep m r) h1 (Nat.mod_lt _ hm)
      exact ⟨i1, i2, i3.trans (Nat.div_le_self _ _)⟩

/-- `mod_pow` is the mathematical power modulo `m`, for every `m >= 1` (42_modular_exponentiation.md R140). -/
theorem modPow_value (r : ExpRegs) (b e m : Nat) (hm : m ≠ 0) : (modPow r b e m).1 = b ^ e % m := by
  unfold modPow
  split
  · next h => subst h; simp [Nat.mod_one]
  · next h1 =>
    have hlt : 1 < m := by omega
    have hs := (expLoop_spec m (bitlen e) (expInit b e m) (lt_two_pow_bitlen e)).2
    have hb := (expLoop_bounds m (by omega) (bitlen e) (expInit b e m) hlt (Nat.mod_lt _ (by omega))).1
    rw [Nat.mod_eq_of_lt hb] at hs
    refine hs.trans ?_
    show 1 * (b % m) ^ e % m = b ^ e % m
    rw [one_mul]
    exact (Nat.pow_mod b e m).symm

/-- The engine's registers after an invocation are the old ones or fit the width of its operands. -/
theorem modPow_regs (r : ExpRegs) (b e m : Nat) (hm : m ≠ 0) :
    (modPow r b e m).2 = r ∨
      ((modPow r b e m).2.xAcc < m ∧ (modPow r b e m).2.xBase < m ∧ (modPow r b e m).2.xExp ≤ e) := by
  unfold modPow
  split
  · exact .inl rfl
  · next h1 =>
    exact .inr (expLoop_bounds m (by omega) (bitlen e) (expInit b e m) (show 1 < m by omega)
      (Nat.mod_lt _ (by omega)))

end Sys2Proof.Machine
end

