-- ==== Sys2Proof/Laws/Inverse.lean ====
section
/-! SUPPORT. What the inverse unit computes: the gcd, and the inverse when there is one. -/

namespace Sys2Proof.Machine

/-- The invariant of the Euclid loop (43_modular_inverse.md R162): each coefficient times the value is congruent
to its remainder. -/
structure Bezout (value modulus : Nat) (r : InvRegs) : Prop where
  prev : (modulus : Int) ∣ r.tPrev * value - r.rPrev
  curr : (modulus : Int) ∣ r.tCurr * value - r.rCurr

theorem euclidInit_bezout (value modulus : Nat) : Bezout value modulus (euclidInit value modulus) where
  prev := by simp [euclidInit]
  curr := by simp [euclidInit]

theorem euclidStep_rCurr (r : InvRegs) : (euclidStep r).rCurr = r.rPrev % r.rCurr := by
  show r.rPrev - r.rPrev / r.rCurr * r.rCurr = _
  rw [Nat.mod_eq_sub_div_mul]

theorem euclidStep_bezout {value modulus : Nat} {r : InvRegs} (h : Bezout value modulus r) :
    Bezout value modulus (euclidStep r) where
  prev := h.curr
  curr := by
    have hle : r.rPrev / r.rCurr * r.rCurr ≤ r.rPrev := Nat.div_mul_le_self _ _
    have e : (r.tPrev - ((r.rPrev / r.rCurr : Nat) : Int) * r.tCurr) * value -
        ((r.rPrev - r.rPrev / r.rCurr * r.rCurr : Nat) : Int) =
        (r.tPrev * value - r.rPrev) - ((r.rPrev / r.rCurr : Nat) : Int) * (r.tCurr * value - r.rCurr) := by
      push_cast [hle]; ring
    show (modulus : Int) ∣ (r.tPrev - ((r.rPrev / r.rCurr : Nat) : Int) * r.tCurr) * value -
        ((r.rPrev - r.rPrev / r.rCurr * r.rCurr : Nat) : Int)
    rw [e]
    exact dvd_sub h.prev (Dvd.dvd.mul_left h.curr _)

theorem euclidStep_gcd (r : InvRegs) :
    Nat.gcd (euclidStep r).rCurr (euclidStep r).rPrev = Nat.gcd r.rCurr r.rPrev := by
  rw [euclidStep_rCurr]
  exact (Nat.gcd_rec r.rCurr r.rPrev).symm

/-- The loop, given at least R_CURR iterations, ends with R_CURR = 0 and the gcd in R_PREV, keeps the invariant,
and no remainder exceeds the larger of the two it began with (43_modular_inverse.md R163). -/
theorem euclidLoop_spec (value modulus : Nat) (fuel : Nat) (r : InvRegs) (hf : r.rCurr ≤ fuel)
    (hb : Bezout value modulus r) :
    (euclidLoop fuel r).rCurr = 0 ∧ (euclidLoop fuel r).rPrev = Nat.gcd r.rCurr r.rPrev ∧
      Bezout value modulus (euclidLoop fuel r) := by
  induction fuel generalizing r with
  | zero =>
    have h0 : r.rCurr = 0 := by omega
    simp [euclidLoop, h0, hb]
  | succ k ih =>
    unfold euclidLoop
    split
    · next h0 => simp [h0, hb]
    · next h0 =>
      have hlt : (euclidStep r).rCurr ≤ k := by
        have := Nat.mod_lt r.rPrev (Nat.pos_of_ne_zero h0)
        rw [euclidStep_rCurr]
        omega
      obtain ⟨h1, h2, h3⟩ := ih (euclidStep r) hlt (euclidStep_bezout hb)
      exact ⟨h1, h2.trans (euclidStep_gcd r), h3⟩

theorem euclid_spec (value modulus : Nat) :
    (euclid value modulus).rCurr = 0 ∧ (euclid value modulus).rPrev = Nat.gcd value modulus ∧
      Bezout value modulus (euclid value modulus) :=
  euclidLoop_spec value modulus value _ le_rfl (euclidInit_bezout value modulus)

/-- R_PREV at the loop's exit is the gcd (43_modular_inverse.md R163). -/
theorem euclid_rPrev (value modulus : Nat) : (euclid value modulus).rPrev = Nat.gcd value modulus :=
  (euclid_spec value modulus).2.1

/-- `mod_inverse` fails exactly when the arguments are not coprime (43_modular_inverse.md R160). -/
theorem modInverse_none {value modulus : Nat} (h : Nat.gcd value modulus ≠ 1) :
    (modInverse value modulus).1 = none := by
  simp [modInverse, euclid_rPrev, h]

/-- `mod_inverse` of coprime arguments is the inverse in `[0, modulus)` (43_modular_inverse.md R160). -/
theorem modInverse_some {value modulus : Nat} (hm : modulus ≠ 0) (h : Nat.gcd value modulus = 1) :
    ∃ x, (modInverse value modulus).1 = some x ∧ x < modulus ∧ x * value % modulus = 1 % modulus := by
  have hpos : (0 : Int) < modulus := by exact_mod_cast Nat.pos_of_ne_zero hm
  have hr := euclid_rPrev value modulus
  have hb := (euclid_spec value modulus).2.2.prev
  rw [hr, h] at hb
  set t := (euclid value modulus).tPrev with ht
  have hx0 : 0 ≤ t % (modulus : Int) := Int.emod_nonneg _ hpos.ne'
  refine ⟨(t % (modulus : Int)).toNat, by simp [modInverse, hr, h, ← ht], ?_, ?_⟩
  · have := Int.emod_lt_of_pos t hpos
    omega
  · have hc : (((t % (modulus : Int)).toNat : Nat) : Int) = t % modulus := Int.toNat_of_nonneg hx0
    have e : ((t % (modulus : Int)).toNat * value : Nat) ≡ (1 : Nat) [MOD modulus] := by
      rw [← Int.natCast_modEq_iff]
      push_cast
      rw [hc]
      have h1 : t % (modulus : Int) * value ≡ t * value [ZMOD modulus] := (Int.mod_modEq _ _).mul_right _
      have h2 : (1 : Int) ≡ t * value [ZMOD modulus] := (Int.modEq_iff_dvd).mpr (by simpa using hb)
      exact h1.trans h2.symm
    exact e

end Sys2Proof.Machine
end

