-- ==== Sys2Proof/Laws/State.lean ====
section
/-! SUPPORT. One lemma per field per update of the state, true by rfl, and the flags each update leaves. -/

namespace Sys2Proof.Machine

@[simp] theorem accept_opa (w : CtlWord) (s : State) : (accept w s).opa = s.opa := rfl
@[simp] theorem accept_opb (w : CtlWord) (s : State) : (accept w s).opb = s.opb := rfl
@[simp] theorem accept_opm (w : CtlWord) (s : State) : (accept w s).opm = s.opm := rfl
@[simp] theorem accept_res0 (w : CtlWord) (s : State) : (accept w s).res0 = s.res0 := rfl
@[simp] theorem accept_res1 (w : CtlWord) (s : State) : (accept w s).res1 = s.res1 := rfl
@[simp] theorem accept_size (w : CtlWord) (s : State) : (accept w s).size = s.size := rfl
@[simp] theorem accept_rounds (w : CtlWord) (s : State) : (accept w s).rounds = s.rounds := rfl
@[simp] theorem accept_cfg (w : CtlWord) (s : State) : (accept w s).cfg = s.cfg := rfl
@[simp] theorem accept_status (w : CtlWord) (s : State) : (accept w s).status = statusWord true false false false := rfl
@[simp] theorem accept_errcode (w : CtlWord) (s : State) : (accept w s).errcode = 0#32 := rfl
@[simp] theorem accept_tries (w : CtlWord) (s : State) : (accept w s).tries = 0#32 := rfl
@[simp] theorem accept_opc (w : CtlWord) (s : State) : (accept w s).opc = w := rfl
@[simp] theorem accept_exp (w : CtlWord) (s : State) : (accept w s).exp = s.exp := rfl
@[simp] theorem accept_inv (w : CtlWord) (s : State) : (accept w s).inv = s.inv := rfl
@[simp] theorem accept_tst (w : CtlWord) (s : State) : (accept w s).tst = s.tst := rfl
@[simp] theorem accept_key (w : CtlWord) (s : State) : (accept w s).key = s.key := rfl
@[simp] theorem accept_phase (w : CtlWord) (s : State) : (accept w s).phase = .entry := rfl
@[simp] theorem accept_rand (w : CtlWord) (s : State) : (accept w s).rand = s.rand := rfl
@[simp] theorem accept_host (w : CtlWord) (s : State) : (accept w s).host = s.host := rfl
@[simp] theorem accept_reads (w : CtlWord) (s : State) : (accept w s).reads = s.reads := rfl
@[simp] theorem accept_fresh (w : CtlWord) (s : State) : (accept w s).fresh = s.fresh := rfl

@[simp] theorem complete_opa (r0 r1 : Nat) (f : Bool) (s : State) : (complete r0 r1 f s).opa = s.opa := rfl
@[simp] theorem complete_opb (r0 r1 : Nat) (f : Bool) (s : State) : (complete r0 r1 f s).opb = s.opb := rfl
@[simp] theorem complete_opm (r0 r1 : Nat) (f : Bool) (s : State) : (complete r0 r1 f s).opm = s.opm := rfl
@[simp] theorem complete_res0 (r0 r1 : Nat) (f : Bool) (s : State) : (complete r0 r1 f s).res0 = r0 := rfl
@[simp] theorem complete_res1 (r0 r1 : Nat) (f : Bool) (s : State) : (complete r0 r1 f s).res1 = r1 := rfl
@[simp] theorem complete_size (r0 r1 : Nat) (f : Bool) (s : State) : (complete r0 r1 f s).size = s.size := rfl
@[simp] theorem complete_rounds (r0 r1 : Nat) (f : Bool) (s : State) : (complete r0 r1 f s).rounds = s.rounds := rfl
@[simp] theorem complete_cfg (r0 r1 : Nat) (f : Bool) (s : State) : (complete r0 r1 f s).cfg = s.cfg := rfl
@[simp] theorem complete_status (r0 r1 : Nat) (f : Bool) (s : State) : (complete r0 r1 f s).status = statusWord false true false f := rfl
@[simp] theorem complete_errcode (r0 r1 : Nat) (f : Bool) (s : State) : (complete r0 r1 f s).errcode = 0#32 := rfl
@[simp] theorem complete_tries (r0 r1 : Nat) (f : Bool) (s : State) : (complete r0 r1 f s).tries = s.tries := rfl
@[simp] theorem complete_opc (r0 r1 : Nat) (f : Bool) (s : State) : (complete r0 r1 f s).opc = s.opc := rfl
@[simp] theorem complete_exp (r0 r1 : Nat) (f : Bool) (s : State) : (complete r0 r1 f s).exp = s.exp := rfl
@[simp] theorem complete_inv (r0 r1 : Nat) (f : Bool) (s : State) : (complete r0 r1 f s).inv = s.inv := rfl
@[simp] theorem complete_tst (r0 r1 : Nat) (f : Bool) (s : State) : (complete r0 r1 f s).tst = s.tst := rfl
@[simp] theorem complete_key (r0 r1 : Nat) (f : Bool) (s : State) : (complete r0 r1 f s).key = s.key := rfl
@[simp] theorem complete_phase (r0 r1 : Nat) (f : Bool) (s : State) : (complete r0 r1 f s).phase = .entry := rfl
@[simp] theorem complete_rand (r0 r1 : Nat) (f : Bool) (s : State) : (complete r0 r1 f s).rand = s.rand := rfl
@[simp] theorem complete_host (r0 r1 : Nat) (f : Bool) (s : State) : (complete r0 r1 f s).host = s.host := rfl
@[simp] theorem complete_reads (r0 r1 : Nat) (f : Bool) (s : State) : (complete r0 r1 f s).reads = s.reads := rfl
@[simp] theorem complete_fresh (r0 r1 : Nat) (f : Bool) (s : State) : (complete r0 r1 f s).fresh = s.fresh := rfl

@[simp] theorem errorComplete_opa (k : ErrorKind) (s : State) : (errorComplete k s).opa = s.opa := rfl
@[simp] theorem errorComplete_opb (k : ErrorKind) (s : State) : (errorComplete k s).opb = s.opb := rfl
@[simp] theorem errorComplete_opm (k : ErrorKind) (s : State) : (errorComplete k s).opm = s.opm := rfl
@[simp] theorem errorComplete_res0 (k : ErrorKind) (s : State) : (errorComplete k s).res0 = 0 := rfl
@[simp] theorem errorComplete_res1 (k : ErrorKind) (s : State) : (errorComplete k s).res1 = 0 := rfl
@[simp] theorem errorComplete_size (k : ErrorKind) (s : State) : (errorComplete k s).size = s.size := rfl
@[simp] theorem errorComplete_rounds (k : ErrorKind) (s : State) : (errorComplete k s).rounds = s.rounds := rfl
@[simp] theorem errorComplete_cfg (k : ErrorKind) (s : State) : (errorComplete k s).cfg = s.cfg := rfl
@[simp] theorem errorComplete_status (k : ErrorKind) (s : State) : (errorComplete k s).status = statusWord false true true false := rfl
@[simp] theorem errorComplete_errcode (k : ErrorKind) (s : State) : (errorComplete k s).errcode = k.code := rfl
@[simp] theorem errorComplete_tries (k : ErrorKind) (s : State) : (errorComplete k s).tries = s.tries := rfl
@[simp] theorem errorComplete_opc (k : ErrorKind) (s : State) : (errorComplete k s).opc = s.opc := rfl
@[simp] theorem errorComplete_exp (k : ErrorKind) (s : State) : (errorComplete k s).exp = s.exp := rfl
@[simp] theorem errorComplete_inv (k : ErrorKind) (s : State) : (errorComplete k s).inv = s.inv := rfl
@[simp] theorem errorComplete_tst (k : ErrorKind) (s : State) : (errorComplete k s).tst = s.tst := rfl
@[simp] theorem errorComplete_key (k : ErrorKind) (s : State) : (errorComplete k s).key = s.key := rfl
@[simp] theorem errorComplete_phase (k : ErrorKind) (s : State) : (errorComplete k s).phase = .entry := rfl
@[simp] theorem errorComplete_rand (k : ErrorKind) (s : State) : (errorComplete k s).rand = s.rand := rfl
@[simp] theorem errorComplete_host (k : ErrorKind) (s : State) : (errorComplete k s).host = s.host := rfl
@[simp] theorem errorComplete_reads (k : ErrorKind) (s : State) : (errorComplete k s).reads = s.reads := rfl
@[simp] theorem errorComplete_fresh (k : ErrorKind) (s : State) : (errorComplete k s).fresh = s.fresh := rfl

@[simp] theorem genBegin_opa (s : State) : (genBegin s).opa = s.opa := rfl
@[simp] theorem genBegin_opb (s : State) : (genBegin s).opb = s.opb := rfl
@[simp] theorem genBegin_opm (s : State) : (genBegin s).opm = s.opm := rfl
@[simp] theorem genBegin_res0 (s : State) : (genBegin s).res0 = s.res0 := rfl
@[simp] theorem genBegin_res1 (s : State) : (genBegin s).res1 = s.res1 := rfl
@[simp] theorem genBegin_size (s : State) : (genBegin s).size = s.size := rfl
@[simp] theorem genBegin_rounds (s : State) : (genBegin s).rounds = s.rounds := rfl
@[simp] theorem genBegin_cfg (s : State) : (genBegin s).cfg = s.cfg := rfl
@[simp] theorem genBegin_status (s : State) : (genBegin s).status = s.status := rfl
@[simp] theorem genBegin_errcode (s : State) : (genBegin s).errcode = s.errcode := rfl
@[simp] theorem genBegin_tries (s : State) : (genBegin s).tries = 0#32 := rfl
@[simp] theorem genBegin_opc (s : State) : (genBegin s).opc = s.opc := rfl
@[simp] theorem genBegin_exp (s : State) : (genBegin s).exp = s.exp := rfl
@[simp] theorem genBegin_inv (s : State) : (genBegin s).inv = s.inv := rfl
@[simp] theorem genBegin_tst (s : State) : (genBegin s).tst = s.tst := rfl
@[simp] theorem genBegin_key (s : State) : (genBegin s).key = s.key := rfl
@[simp] theorem genBegin_phase (s : State) : (genBegin s).phase = s.phase := rfl
@[simp] theorem genBegin_rand (s : State) : (genBegin s).rand = s.rand := rfl
@[simp] theorem genBegin_host (s : State) : (genBegin s).host = s.host := rfl
@[simp] theorem genBegin_reads (s : State) : (genBegin s).reads = s.reads := rfl
@[simp] theorem genBegin_fresh (s : State) : (genBegin s).fresh = s.fresh := rfl

/-! ### The flags of a STATUS word -/

theorem statusWord_busy (a b c d : Bool) : (statusWord a b c d).getLsbD 0 = a := by
  cases a <;> cases b <;> cases c <;> cases d <;> rfl

theorem statusWord_done (a b c d : Bool) : (statusWord a b c d).getLsbD 1 = b := by
  cases a <;> cases b <;> cases c <;> cases d <;> rfl

theorem statusWord_err (a b c d : Bool) : (statusWord a b c d).getLsbD 2 = c := by
  cases a <;> cases b <;> cases c <;> cases d <;> rfl

theorem statusWord_flag (a b c d : Bool) : (statusWord a b c d).getLsbD 3 = d := by
  cases a <;> cases b <;> cases c <;> cases d <;> rfl

theorem statusWord_lt (a b c d : Bool) : (statusWord a b c d).toNat < 16 := by
  cases a <;> cases b <;> cases c <;> cases d <;> decide

@[simp] theorem accept_busy (w : CtlWord) (s : State) : (accept w s).busy = true :=
  statusWord_busy ..
@[simp] theorem accept_done (w : CtlWord) (s : State) : (accept w s).done = false :=
  statusWord_done ..
@[simp] theorem accept_err (w : CtlWord) (s : State) : (accept w s).err = false :=
  statusWord_err ..
@[simp] theorem accept_flag (w : CtlWord) (s : State) : (accept w s).flag = false :=
  statusWord_flag ..

@[simp] theorem complete_busy (r0 r1 : Nat) (f : Bool) (s : State) : (complete r0 r1 f s).busy = false :=
  statusWord_busy ..
@[simp] theorem complete_done (r0 r1 : Nat) (f : Bool) (s : State) : (complete r0 r1 f s).done = true :=
  statusWord_done ..
@[simp] theorem complete_err (r0 r1 : Nat) (f : Bool) (s : State) : (complete r0 r1 f s).err = false :=
  statusWord_err ..
@[simp] theorem complete_flag (r0 r1 : Nat) (f : Bool) (s : State) : (complete r0 r1 f s).flag = f :=
  statusWord_flag ..

@[simp] theorem errorComplete_busy (k : ErrorKind) (s : State) : (errorComplete k s).busy = false :=
  statusWord_busy ..
@[simp] theorem errorComplete_done (k : ErrorKind) (s : State) : (errorComplete k s).done = true :=
  statusWord_done ..
@[simp] theorem errorComplete_err (k : ErrorKind) (s : State) : (errorComplete k s).err = true :=
  statusWord_err ..
@[simp] theorem errorComplete_flag (k : ErrorKind) (s : State) : (errorComplete k s).flag = false :=
  statusWord_flag ..

/-! ### Reset -/

@[simp] theorem resetBlock_opa (s : State) : (resetBlock s).opa = 0 := by
  unfold resetBlock; split <;> rfl
@[simp] theorem resetBlock_opb (s : State) : (resetBlock s).opb = 0 := by
  unfold resetBlock; split <;> rfl
@[simp] theorem resetBlock_opm (s : State) : (resetBlock s).opm = 0 := by
  unfold resetBlock; split <;> rfl
@[simp] theorem resetBlock_res0 (s : State) : (resetBlock s).res0 = 0 := by
  unfold resetBlock; split <;> rfl
@[simp] theorem resetBlock_res1 (s : State) : (resetBlock s).res1 = 0 := by
  unfold resetBlock; split <;> rfl
@[simp] theorem resetBlock_size (s : State) : (resetBlock s).size = 0#32 := by
  unfold resetBlock; split <;> rfl
@[simp] theorem resetBlock_rounds (s : State) : (resetBlock s).rounds = Config.roundsReset := by
  unfold resetBlock; split <;> rfl
@[simp] theorem resetBlock_cfg (s : State) : (resetBlock s).cfg = 0#32 := by
  unfold resetBlock; split <;> rfl
@[simp] theorem resetBlock_status (s : State) : (resetBlock s).status = 0#32 := by
  unfold resetBlock; split <;> rfl
@[simp] theorem resetBlock_errcode (s : State) : (resetBlock s).errcode = 0#32 := by
  unfold resetBlock; split <;> rfl
@[simp] theorem resetBlock_tries (s : State) : (resetBlock s).tries = 0#32 := by
  unfold resetBlock; split <;> rfl
@[simp] theorem resetBlock_opc (s : State) : (resetBlock s).opc = 0#32 := by
  unfold resetBlock; split <;> rfl
@[simp] theorem resetBlock_phase (s : State) : (resetBlock s).phase = .entry := by
  unfold resetBlock; split <;> rfl
@[simp] theorem resetBlock_host (s : State) : (resetBlock s).host = s.host := by
  unfold resetBlock; split <;> rfl
@[simp] theorem resetBlock_reads (s : State) : (resetBlock s).reads = s.reads := by
  unfold resetBlock; split <;> rfl

@[simp] theorem resetBlock_log (s : State) : (resetBlock s).rand.log = s.rand.log := by
  unfold resetBlock abandonDraw
  split
  · rfl
  · simp only []
    split <;> rfl

/-- Reset never rewinds the random source: at most the answer to an outstanding draw is gone. -/
theorem resetBlock_answers (s : State) :
    (resetBlock s).rand.answers = s.rand.answers ∨ (resetBlock s).rand.answers = s.rand.answers.tail := by
  unfold resetBlock abandonDraw
  split
  · exact .inl rfl
  · simp only []
    split
    · exact .inr rfl
    · exact .inl rfl

end Sys2Proof.Machine
end

