-- ==== Sys2Proof/Laws/Ops.lean ====
section
/-! SUPPORT. What each shared operation can do: a draw, a host transaction, the choice of who moves. -/

namespace Sys2Proof.Machine

/-- Everything a draw can do: wait, go on with an answer in range, or stop on one that is not. -/
theorem draw_cases (range : Nat × Nat) (k : Nat → State → Result) (s : State) :
    (s.rand.answers = [] ∧ draw range k s = .next s) ∨
      (∃ v ws, s.rand.answers = v :: ws ∧ range.1 ≤ v ∧ v ≤ range.2 ∧
        draw range k s =
          k v { s with rand := { answers := ws, log := { lo := range.1, hi := range.2, val := v } :: s.rand.log } }) ∨
      (∃ v ws, s.rand.answers = v :: ws ∧ ¬ (range.1 ≤ v ∧ v ≤ range.2) ∧
        draw range k s = .fault (.drawOutOfContract range.1 range.2 v)) := by
  unfold draw
  cases h : s.rand.answers with
  | nil => exact .inl ⟨rfl, rfl⟩
  | cons v ws =>
    by_cases hv : range.1 ≤ v ∧ v ≤ range.2
    · refine .inr (.inl ⟨v, ws, rfl, hv.1, hv.2, ?_⟩)
      simp [hv, RandomSource.advance, h]
    · exact .inr (.inr ⟨v, ws, rfl, hv, by simp only [if_neg hv]⟩)

/-- A draw with an answer in range. -/
theorem draw_answered {range : Nat × Nat} {k : Nat → State → Result} {s : State} {v : Nat} {ws : List Nat}
    (h : s.rand.answers = v :: ws) (h1 : range.1 ≤ v) (h2 : v ≤ range.2) :
    draw range k s =
      k v { s with rand := { answers := ws, log := { lo := range.1, hi := range.2, val := v } :: s.rand.log } } := by
  simp [draw, h, h1, h2, RandomSource.advance]

/-- A draw without an answer waits. -/
theorem draw_waits {range : Nat × Nat} {k : Nat → State → Result} {s : State} (h : s.rand.answers = []) :
    draw range k s = .next s := by
  simp [draw, h]

/-- Everything a host write can do. -/
theorem hostWrite_cases (idx : RegIndex) (v : Nat) (s : State) :
    hostWrite idx v s = s ∨
      (s.busy = false ∧
        (hostWrite idx v s = { s with opa := v } ∨ hostWrite idx v s = { s with opb := v } ∨
          hostWrite idx v s = { s with opm := v } ∨ hostWrite idx v s = { s with size := BitVec.ofNat 32 v } ∨
          hostWrite idx v s = { s with rounds := BitVec.ofNat 32 v } ∨
          hostWrite idx v s = { s with cfg := BitVec.ofNat 32 (v % 2) } ∨
          (idx = 8#4 ∧ hostWrite idx v s = accept (BitVec.ofNat 32 v) s))) := by
  unfold hostWrite
  split
  · exact .inl rfl
  · next hb =>
    have hb' : s.busy = false := by simpa using hb
    have h8 : regAt idx = some .cmd → idx = 8#4 := by revert idx; decide
    split <;> simp_all

/-- Everything a host read can do: it records one value, and takes a free value if the read is unspecified. -/
theorem hostRead_cases (idx : RegIndex) (s : State) :
    (hostRead idx s = { s with reads := { idx := idx, val := readRegister (regAt idx) s } :: s.reads }) ∨
      (hostRead idx s =
        { s with
          reads := { idx := idx, val := Config.busyResult s.fresh % 2 ^ Config.W } :: s.reads
          fresh := s.fresh + 1 }) := by
  unfold hostRead
  split
  · exact .inr rfl
  · exact .inl rfl

/-- Who moves, and in which state: the host's script apart, the state is `s`. -/
theorem nextMover_cases (s : State) :
    (∃ a rest, s.host = .act a :: rest ∧ nextMover s = .host a { s with host := rest }) ∨
      (s.busy = true ∧ ∃ h, h ⊆ s.host ∧ nextMover s = .sequencer { s with host := h }) ∨
      (s.busy = false ∧ ∃ h, h ⊆ s.host ∧ nextMover s = .nobody { s with host := h }) := by
  unfold nextMover
  split
  · next a rest h => exact .inl ⟨a, rest, h, rfl⟩
  · next rest h =>
    cases hb : s.busy with
    | true => exact .inr (.inl ⟨rfl, s.host, fun _ hx => hx, rfl⟩)
    | false => exact .inr (.inr ⟨rfl, rest, by simp [h], rfl⟩)
  · next rest h =>
    cases hb : s.busy with
    | true => exact .inr (.inl ⟨rfl, rest, by simp [h], rfl⟩)
    | false => exact .inr (.inr ⟨rfl, rest, by simp [h], rfl⟩)
  · cases hb : s.busy with
    | true => exact .inr (.inl ⟨rfl, s.host, fun _ hx => hx, rfl⟩)
    | false => exact .inr (.inr ⟨rfl, s.host, fun _ hx => hx, rfl⟩)

/-- While busy with an empty script the sequencer moves. -/
theorem step_sequencer {s : State} (hb : s.busy = true) (hh : s.host = []) : step s = sequencerStep s := by
  simp [step, nextMover, hh, hb]

/-- While idle with an empty script nothing happens. -/
theorem step_idle {s : State} (hb : s.busy = false) (hh : s.host = []) : step s = .next s := by
  simp [step, nextMover, hh, hb]

/-- The step runs the command that OPC decodes to. -/
theorem step_exec {s : State} {i : Instr} (hb : s.busy = true) (hh : s.host = []) (hd : decode s.opc = .ok i) :
    step s = exec i s := by
  rw [step_sequencer hb hh]
  simp [sequencerStep, hd]

/-- A run goes on from the state its first step gives. -/
theorem steps_succ {s t : State} (h : step s = .next t) (n : Nat) : Safety.steps (n + 1) s = Safety.steps n t := by
  simp [Safety.steps, h]

/-- A run of `m + n` steps is a run of `m` and then one of `n`. -/
theorem steps_add {s t : State} {m : Nat} (h : Safety.steps m s = .next t) (n : Nat) :
    Safety.steps (m + n) s = Safety.steps n t := by
  induction m generalizing s with
  | zero =>
    simp only [Safety.steps, Host.Outcome.next.injEq] at h
    rw [Nat.zero_add, h]
  | succ m ih =>
    rw [Nat.succ_add]
    cases hs : step s with
    | next u => rw [steps_succ hs] at h ⊢; exact ih h
    | fault r => simp [Safety.steps, hs] at h
    | refused r => simp [Safety.steps, hs] at h

/-- Induction over a run: what every step keeps, every run keeps. -/
theorem steps_keep {P : State → Prop} (hP : ∀ s t, P s → step s = .next t → P t) {n : Nat} {s t : State}
    (h : P s) (hn : Safety.steps n s = .next t) : P t := by
  induction n generalizing s with
  | zero =>
    simp only [Safety.steps, Host.Outcome.next.injEq] at hn
    exact hn ▸ h
  | succ n ih =>
    cases hs : step s with
    | next u => rw [steps_succ hs] at hn; exact ih (hP s u h hs) hn
    | fault r => simp [Safety.steps, hs] at hn
    | refused r => simp [Safety.steps, hs] at hn

end Sys2Proof.Machine
end

