-- ==== Sys2Proof/Laws/Tester.lean ====
section
/-! SUPPORT. What the start of a primality test and one trial of it can do. -/

namespace Sys2Proof.Machine

open Sys2Proof.Safety

theorem gcdUnit_value (a b : Nat) : (gcdUnit a b).1 = Nat.gcd a b :=
  euclid_rPrev a b

/-- Everything the start of a test can do. -/
theorem testBegin_cases (c : Nat) (s : State) :
    (c < 2 ∧ testBegin c s = ({ s with tst := { s.tst with cand := c } }, .verdict false)) ∨
      (2 ≤ c ∧ s.loose = false ∧ (c = 2 ∨ c = 3) ∧
        testBegin c s = ({ s with tst := { s.tst with cand := c } }, .verdict true)) ∨
      (2 ≤ c ∧ (witnessRange s.loose c).1 ≤ (witnessRange s.loose c).2 ∧ ¬ (s.loose = false ∧ (c = 2 ∨ c = 3)) ∧
        testBegin c s =
          ({ s with tst := { s.tst with cand := c, trial := 0#32 } },
            if 0 < s.roundsNat then .needsWitness else .verdict true)) := by
  unfold testBegin
  by_cases h2 : c < 2
  · exact .inl ⟨h2, by simp [h2]⟩
  · have hc : 2 ≤ c := by omega
    by_cases he : (witnessRange s.loose c).2 < (witnessRange s.loose c).1
    · have := (witnessRange_empty_iff s.loose c hc).mp he
      exact .inr (.inl ⟨hc, this.1, this.2, by simp [h2, he]⟩)
    · have := mt (witnessRange_empty_iff s.loose c hc).mpr he
      exact .inr (.inr ⟨hc, by omega, this, by simp only [if_neg h2, if_neg he]; rfl⟩)

/-- Everything one trial can do: the witness passes and TRIAL counts, or it is rejected. -/
theorem testTrial_cases (a : Nat) (s : State) (hc : s.tst.cand ≠ 0) :
    ∃ e v,
      (e = s.exp ∨ (e.xAcc < s.tst.cand ∧ e.xBase < s.tst.cand ∧ e.xExp ≤ s.tst.cand - 1)) ∧
      (v = euclid a s.tst.cand) ∧
      ((FermatPass s.tst.cand a ∧
          testTrial a s =
            ({ s with
                exp := e, inv := v
                tst := { cand := s.tst.cand, wit := a, trial := s.tst.trial + 1#32 } },
              if (s.tst.trial + 1#32).toNat < s.roundsNat then .needsWitness else .verdict true)) ∨
        (¬ FermatPass s.tst.cand a ∧
          testTrial a s =
            ({ s with exp := e, inv := v, tst := { cand := s.tst.cand, wit := a, trial := s.tst.trial } },
              .verdict false))) := by
  have hm := modPow_value s.exp a (s.tst.cand - 1) s.tst.cand hc
  have hr := modPow_regs s.exp a (s.tst.cand - 1) s.tst.cand hc
  unfold testTrial
  by_cases hg : Nat.gcd a s.tst.cand = 1
  · by_cases hp : a ^ (s.tst.cand - 1) % s.tst.cand = 1
    · refine ⟨_, _, hr, rfl, .inl ⟨⟨hg, hp⟩, ?_⟩⟩
      simp [gcdUnit, euclid_rPrev, hg, hm, hp, trialsLeft, State.roundsNat]
    · refine ⟨_, _, hr, rfl, .inr ⟨fun h => hp h.2, ?_⟩⟩
      simp [gcdUnit, euclid_rPrev, hg, hm, hp]
  · refine ⟨s.exp, _, .inl rfl, rfl, .inr ⟨fun h => hg h.1, ?_⟩⟩
    simp [gcdUnit, euclid_rPrev, hg]

end Sys2Proof.Machine
end

