-- ==== Sys2Proof/Laws/Commands.lean ====
section
/-! SUPPORT. What each drawing command does in each phase, as one equation a phase, and the key derivation. -/

namespace Sys2Proof.Machine

open Sys2Proof.Safety

/-- A draw whose answer is in range goes on with it. -/
theorem draw_nextAnswer {lo hi : Nat} {k : Nat → State → Result} {s : State} {v : Nat} {ws : List Nat}
    (h : nextAnswer s lo hi v ws) : draw (lo, hi) k s = k v { s with rand := answered s lo hi v ws } :=
  draw_answered h.1 h.2.1 h.2.2

/-- The witness range of the candidate under test, end by end. -/
theorem witnessRange_eq (s : State) : witnessRange s.loose s.tst.cand = (witnessLo s, witnessHi s) := by
  unfold witnessRange witnessLo witnessHi
  split <;> simp_all

theorem exec_primetest_testWitness {s : State} (h : s.phase = .testWitness) :
    exec .primetest s =
      draw (witnessLo s, witnessHi s) (fun a s1 => primetestGo (testTrial a s1)) s := by
  simp only [exec, execPrimetest, h, witnessRange_eq]

theorem exec_primetest_entry {s : State} (h : s.phase ≠ .testWitness) :
    exec .primetest s = primetestGo (testBegin s.opa s) := by
  simp only [exec, execPrimetest]
  split <;> simp_all

theorem exec_primegen_genCandidate {s : State} (h : s.phase = .genCandidate) :
    exec .primegen s =
      draw (2 ^ (s.sizeNat - 1), 2 ^ s.sizeNat - 1) (fun c s1 => primegenGo (genCandidateDrawn c s1)) s := by
  simp only [exec, execPrimegen, h, candidateRange]

theorem exec_primegen_genWitness {s : State} (h : s.phase = .genWitness) :
    exec .primegen s =
      draw (witnessLo s, witnessHi s) (fun a s1 => primegenGo (testTrial a s1)) s := by
  simp only [exec, execPrimegen, h, witnessRange_eq]

theorem exec_primegen_entry {s : State} (h : s.phase ≠ .genCandidate) (h' : s.phase ≠ .genWitness) :
    exec .primegen s =
      if bitWidthOk s.sizeNat then .next { genBegin s with phase := .genCandidate }
      else .next (errorComplete .invalidBitWidth s) := by
  simp only [exec, execPrimegen]
  split <;> simp_all

theorem exec_keygen_keyCandidate {s : State} {k : KeySlot} (h : s.phase = .keyCandidate k) :
    exec .keygen s =
      draw (2 ^ (s.primeWidth - 1), 2 ^ s.primeWidth - 1) (fun c s1 => keygenGo k (genCandidateDrawn c s1)) s := by
  simp only [exec, execKeygen, h, candidateRange]

theorem exec_keygen_keyWitness {s : State} {k : KeySlot} (h : s.phase = .keyWitness k) :
    exec .keygen s =
      draw (witnessLo s, witnessHi s) (fun a s1 => keygenGo k (testTrial a s1)) s := by
  simp only [exec, execKeygen, h, witnessRange_eq]

theorem exec_keygen_entry {s : State} (h : ∀ k, s.phase ≠ .keyCandidate k) (h' : ∀ k, s.phase ≠ .keyWitness k) :
    exec .keygen s =
      if keySizeOk s.sizeNat then .next { genBegin s with phase := .keyCandidate .p }
      else .next (errorComplete .invalidBitWidth s) := by
  simp only [exec, execKeygen]
  split <;> simp_all

/-- Everything the derivation of the key from P and Q can do (46_keypair_generator.md R218, R219). -/
theorem keyFinish_cases (s : State) (hp : 2 ≤ s.key.p) (hq : 2 ≤ s.key.q) :
    ∃ k v,
      (k = { s.key with
              phi := (s.key.p - 1) * (s.key.q - 1), ev := s.opa % ((s.key.p - 1) * (s.key.q - 1)) }) ∧
      (v = euclid (s.opa % ((s.key.p - 1) * (s.key.q - 1))) ((s.key.p - 1) * (s.key.q - 1))) ∧
      ((Nat.gcd s.opa ((s.key.p - 1) * (s.key.q - 1)) = 1 ∧
          ∃ d, keyFinish s = .next (complete (s.key.p * s.key.q) d false { s with key := k, inv := v }) ∧
            d < (s.key.p - 1) * (s.key.q - 1) ∧
            d * s.opa % ((s.key.p - 1) * (s.key.q - 1)) = 1 % ((s.key.p - 1) * (s.key.q - 1))) ∨
        (Nat.gcd s.opa ((s.key.p - 1) * (s.key.q - 1)) ≠ 1 ∧
          keyFinish s = .next (errorComplete .keyGenerationFailed { s with key := k, inv := v }))) := by
  set phi := (s.key.p - 1) * (s.key.q - 1) with hphi
  have hne : phi ≠ 0 := mul_ne_zero (by omega) (by omega)
  have hg : Nat.gcd (s.opa % phi) phi = Nat.gcd s.opa phi := by
    rw [Nat.gcd_comm s.opa, Nat.gcd_rec phi s.opa]
  have hv : (modInverse (s.opa % phi) phi).2 = euclid (s.opa % phi) phi := by
    unfold modInverse
    simp only []
    split <;> rfl
  refine ⟨_, _, rfl, rfl, ?_⟩
  by_cases h : Nat.gcd s.opa phi = 1
  · obtain ⟨x, e1, e2, e3⟩ := modInverse_some hne (hg.trans h)
    refine .inl ⟨h, x, ?_, e2, ?_⟩
    · simp only [keyFinish, ← hphi, e1, hv]
    · rw [← e3]
      simp [Nat.mul_mod]
  · refine .inr ⟨h, ?_⟩
    simp only [keyFinish, ← hphi, modInverse_none (show Nat.gcd (s.opa % phi) phi ≠ 1 by rw [hg]; exact h), hv]

end Sys2Proof.Machine
end

