-- ==== Sys2Proof/Laws/PerInstr.lean ====
section
/-! SUPPORT. Statements about every command as syntax, one lemma per constructor. -/

namespace Sys2Proof.Laws.Encoding

/-- A command's word has a clear reserved field and an opcode from 1 to 7, and its opcode selects it
(30_encoding.md R90, R92, R93). -/
def Statement (i : Instr) : Prop :=
  i.wf = true ∧ zeroField (encode i) = 0#28 ∧ opcodeField (encode i) = opcodeOf i ∧ 1 ≤ (encode i).toNat ∧
    (encode i).toNat ≤ 7 ∧ decodeTableWord 32 (encode i).toNat = some i

theorem modmul : Statement .modmul := by unfold Statement; decide
theorem modexp : Statement .modexp := by unfold Statement; decide
theorem modinv : Statement .modinv := by unfold Statement; decide
theorem primetest : Statement .primetest := by unfold Statement; decide
theorem primegen : Statement .primegen := by unfold Statement; decide
theorem keygen : Statement .keygen := by unfold Statement; decide
theorem transform : Statement .transform := by unfold Statement; decide

end Sys2Proof.Laws.Encoding
end

