-- ==== Sys2Proof/Tests/Slice0.lean ====
section
/-! SUPPORT. The model's own tests. Expected results come from spec/95_test_vectors.md and the spec's tables. -/

namespace Sys2Proof.Tests

open Sys2Proof.Machine Sys2Proof.Safety

/-! ### Helpers -/

/-- A state with operands, idle. -/
def idle (a b m : Nat) : State := { State.reset with opa := a, opb := b, opm := m }

/-- A state that has just accepted the word `w`, with operands, SIZE, ROUNDS, CFG and the source's answers. -/
def busyWith (w : CtlWord) (a b m : Nat) (size rounds cfg : CtlWord) (ws : List Nat) : State :=
  accept w
    { State.reset with
      opa := a, opb := b, opm := m, size := size, rounds := rounds, cfg := cfg, rand := { answers := ws, log := [] } }

/-- RES0, RES1, STATUS, ERRCODE and TRIES of a next state. -/
def results : Result → Option (Nat × Nat × CtlWord × CtlWord × CtlWord)
  | .next t => some (t.res0, t.res1, t.status, t.errcode, t.tries)
  | .fault _ => none
  | .refused _ => none

/-- Is the outcome a next state? -/
def goesOn : Result → Bool
  | .next _ => true
  | .fault _ => false
  | .refused _ => false

/-- The first draw answered, newest first, of a next state. -/
def lastDraw : Result → Option DrawRecord
  | .next t => t.rand.log.head?
  | .fault _ => none
  | .refused _ => none

/-- The phase of a next state. -/
def phaseOf : Result → Option Phase
  | .next t => some t.phase
  | .fault _ => none
  | .refused _ => none

theorem goesOn_next {r : Result} (h : goesOn r = true) : ∃ t, r = .next t := by
  cases r with
  | next t => exact ⟨t, rfl⟩
  | fault r => cases h
  | refused r => cases h

/-- Is the outcome a next state that is idle, without an error? -/
def succeeds : Result → Bool
  | .next t => !t.busy && !t.err
  | .fault _ => false
  | .refused _ => false

theorem succeeds_next {r : Result} (h : succeeds r = true) : ∃ t, r = .next t ∧ t.busy = false ∧ t.err = false := by
  cases r with
  | next t => exact ⟨t, rfl, by simpa [succeeds] using h⟩
  | fault r => cases h
  | refused r => cases h

theorem fits {v : Nat} (h : v < 2 ^ 64) : v < 2 ^ Config.W :=
  lt_of_lt_of_le h (Nat.pow_le_pow_right (by decide) (le_trans (by decide) width_ge))

theorem busy_0 : (0x0#32).getLsbD 0 = false := by decide
theorem busy_1 : (0x1#32).getLsbD 0 = true := by decide

theorem widest : 2 ^ Config.W - 1 < 2 ^ Config.W :=
  Nat.sub_lt (by positivity) (by decide)

/-! ### Well-formed terms: each check refuses an ill-formed one -/

theorem test_wf_write_too_wide : HostAction.wf (.write 0#4 (2 ^ Config.W)) = false := by
  have h : ¬ fitsW (2 ^ Config.W) = true := fun h => lt_irrefl _ ((fitsW_iff _).mp h)
  simpa [HostAction.wf] using h

theorem test_wf_event_too_wide : HostEvent.wf (.act (.write 8#4 (2 ^ Config.W))) = false :=
  test_wf_write_too_wide

theorem test_wf_write_widest : HostAction.wf (.write 0#4 (2 ^ Config.W - 1)) = true :=
  (fitsW_iff _).mpr widest

/-! ### Decoding: each word written out from the table of 30_encoding.md R92 -/

theorem test_decode_modmul : decode 0b00000000000000000000000000000001#32 = .ok .modmul := by decide
theorem test_decode_modexp : decode 0b00000000000000000000000000000010#32 = .ok .modexp := by decide
theorem test_decode_modinv : decode 0b00000000000000000000000000000011#32 = .ok .modinv := by decide
theorem test_decode_primetest : decode 0b00000000000000000000000000000100#32 = .ok .primetest := by decide
theorem test_decode_primegen : decode 0b00000000000000000000000000000101#32 = .ok .primegen := by decide
theorem test_decode_keygen : decode 0b00000000000000000000000000000110#32 = .ok .keygen := by decide
theorem test_decode_transform : decode 0b00000000000000000000000000000111#32 = .ok .transform := by decide
theorem test_decode_reserved_bits :
    decode 0x80000001#32 = .error .reservedBits ∧ decode 0xFFFFFFFF#32 = .error .reservedBits := by decide
theorem test_decode_table_word : decodeTableWord 32 6 = some .keygen ∧ decodeTableWord 32 8 = none := by decide

/-! ### One command, one step (95_test_vectors.md sections 2.1 to 2.8) -/

theorem test_modmul_wraps : results (exec .modmul (idle 7 8 5)) = some (1, 0, 0x2#32, 0#32, 0#32) := by decide +kernel
theorem test_modmul_zero_modulus : results (exec .modmul (idle 3 4 0)) = some (0, 0, 0x6#32, 3#32, 0#32) := by
  decide +kernel

theorem test_modexp_value : results (exec .modexp (idle 4 13 497)) = some (445, 0, 0x2#32, 0#32, 0#32) := by
  decide +kernel
theorem test_modexp_modulus_one : results (exec .modexp (idle 9 9 1)) = some (0, 0, 0x2#32, 0#32, 0#32) := by
  decide +kernel

theorem test_modinv_normalised : results (exec .modinv (idle 7 0 120)) = some (103, 0, 0x2#32, 0#32, 0#32) := by
  decide +kernel
theorem test_modinv_not_coprime : results (exec .modinv (idle 6 0 9)) = some (0, 0, 0x6#32, 2#32, 0#32) := by
  decide +kernel

/-- 44: 3 under the tight range is accepted without a draw. -/
theorem test_primetest_three_tight :
    results (exec .primetest (busyWith 4#32 3 0 0 0#32 1000#32 0#32 [])) = some (0, 0, 0xA#32, 0#32, 0#32) := by
  decide +kernel

/-- 15 with the witness 2 is rejected at the first trial. -/
theorem test_primetest_rejects_fifteen :
    results (exec .primetest
      { busyWith 4#32 15 0 0 0#32 3#32 0#32 [2] with
        phase := .testWitness, tst := { cand := 15, wit := 0, trial := 0#32 } }) =
      some (0, 0, 0x2#32, 0#32, 0#32) := by decide +kernel

/-- SIZE = 4: the candidate draw is (8, 15), TRIES counts it, and 13 waits for a witness. -/
theorem test_primegen_candidate :
    let r := exec .primegen { busyWith 5#32 0 0 0 4#32 2#32 0#32 [13, 2, 5] with phase := .genCandidate }
    lastDraw r = some { lo := 8, hi := 15, val := 13 } ∧ phaseOf r = some .genWitness ∧
      results r = some (0, 0, 0x1#32, 0#32, 1#32) := by decide +kernel

/-- 13 passes its second and last trial with the witness 5, drawn from (2, 11). -/
theorem test_primegen_last_trial :
    let r := exec .primegen
      { busyWith 5#32 0 0 0 4#32 2#32 0#32 [5] with
        phase := .genWitness, tries := 2#32, tst := { cand := 13, wit := 2, trial := 1#32 } }
    lastDraw r = some { lo := 2, hi := 11, val := 5 } ∧ results r = some (13, 0, 0x2#32, 0#32, 2#32) := by
  decide +kernel

/-- P = 11 and the last trial of Q = 13, with e = 65537: n = 143, d = 113. -/
theorem test_keygen_key :
    results (exec .keygen
      { busyWith 6#32 65537 0 0 8#32 2#32 0#32 [5] with
        phase := .keyWitness .q, tries := 1#32, tst := { cand := 13, wit := 2, trial := 1#32 }
        key := { p := 11, q := 0, phi := 0, ev := 0 } }) = some (143, 113, 0x2#32, 0#32, 1#32) := by decide +kernel

/-- The same with e = 3, which divides phi = 120: KeyGenerationFailed. -/
theorem test_keygen_fails :
    results (exec .keygen
      { busyWith 6#32 3 0 0 8#32 2#32 0#32 [5] with
        phase := .keyWitness .q, tries := 1#32, tst := { cand := 13, wit := 2, trial := 1#32 }
        key := { p := 11, q := 0, phi := 0, ev := 0 } }) = some (0, 0, 0x6#32, 4#32, 1#32) := by decide +kernel

theorem test_transform_encrypts : results (exec .transform (idle 42 7 143)) = some (81, 0, 0x2#32, 0#32, 0#32) := by
  decide +kernel
theorem test_transform_reduces_payload :
    results (exec .transform (idle 185 7 143)) = some (81, 0, 0x2#32, 0#32, 0#32) := by decide +kernel

/-- The word 0x12 is illegal: code 5, no exponentiation. -/
theorem test_illegal_word :
    results (step (busyWith 0x12#32 7 8 5 0#32 0#32 0#32 [])) = some (0, 0, 0x6#32, 5#32, 0#32) := by decide +kernel

/-- A placed word is what the very next step runs. -/
theorem test_fetch_word : results (step ((idle 7 8 5).withFetchWord 32 1)) = some (1, 0, 0x2#32, 0#32, 0#32) := by
  decide +kernel

theorem test_host_reads_rounds :
    (step { State.reset with host := [.act (.read 6#4)] }) =
      .next { State.reset with reads := [{ idx := 6#4, val := 1000 }] } := rfl

/-! ### Witnesses: for each obligation with hypotheses, a concrete state that meets them together -/

/-- PRIMETEST of 5, ROUNDS = 2, tight, waiting for its first witness. -/
def atTestWitness (ws : List Nat) : State :=
  { busyWith 4#32 5 0 0 0#32 2#32 0#32 ws with phase := .testWitness, tst := { cand := 5, wit := 0, trial := 0#32 } }

/-- PRIMEGEN of 4 bits, ROUNDS = 2, tight, waiting for a candidate. -/
def atGenCandidate (ws : List Nat) : State :=
  { busyWith 5#32 0 0 0 4#32 2#32 0#32 ws with phase := .genCandidate }

/-- PRIMEGEN of 4 bits with the candidate `c`, waiting for the witness of its trial `k`. -/
def atGenWitness (c : Nat) (k : CtlWord) (ws : List Nat) : State :=
  { busyWith 5#32 0 0 0 4#32 2#32 0#32 ws with
    phase := .genWitness, tries := 1#32, tst := { cand := c, wit := 0, trial := k } }

/-- KEYGEN of 8 bits for the exponent `e`, the last trial of the candidate `c` for the slot `k`, P = 11. -/
def atKeyWitness (e : Nat) (k : KeySlot) (c : Nat) (ws : List Nat) : State :=
  { busyWith 6#32 e 0 0 8#32 2#32 0#32 ws with
    phase := .keyWitness k, tries := 1#32, tst := { cand := c, wit := 0, trial := 1#32 }
    key := { p := 11, q := 0, phi := 0, ev := 0 } }

/-- KEYGEN for the exponent 7, waiting for a candidate for the slot `k`, P = 3. -/
def atKeyCandidate (k : KeySlot) (size rounds : CtlWord) (ws : List Nat) : State :=
  { busyWith 6#32 7 0 0 size rounds 0#32 ws with
    phase := .keyCandidate k, key := { p := 3, q := 0, phi := 0, ev := 0 } }

/-- PRIMEGEN of SIZE = 1, waiting for a candidate, with two answers. -/
def hangingGen : State := { busyWith 5#32 0 0 0 1#32 2#32 0#32 [1, 1] with phase := .genCandidate }

/-- The invariant says nothing of the random source or the host. -/
theorem inv_outside {s : State} (h : Inv s) (ws : List Nat) (es : List HostEvent) :
    Inv { s with rand := { s.rand with answers := ws }, host := es } := by
  obtain ⟨⟨⟩, ⟨⟩, p⟩ := h
  exact ⟨by constructor <;> assumption, by constructor <;> assumption, p⟩

theorem inv_atTestWitness (ws : List Nat) : Inv (atTestWitness ws) := by
  refine inv_outside (s := atTestWitness []) ⟨?_, ?_, ?_⟩ ws []
  · constructor <;> exact fits (by decide)
  · constructor <;> decide
  · exact ⟨by decide, by decide, by decide, by decide, by decide⟩

theorem inv_atGenWitness (ws : List Nat) : Inv (atGenWitness 13 1#32 ws) := by
  refine inv_outside (s := atGenWitness 13 1#32 []) ⟨?_, ?_, ?_⟩ ws []
  · constructor <;> exact fits (by decide)
  · constructor <;> decide
  · exact ⟨by decide, by decide, (bitWidthOk_iff _).mpr ⟨by decide, le_trans (by decide) width_ge⟩,
      ⟨by decide, by decide, by decide⟩, by decide, by decide⟩

theorem inv_atGenCandidate (ws : List Nat) : Inv (atGenCandidate ws) := by
  refine inv_outside (s := atGenCandidate []) ⟨?_, ?_, ?_⟩ ws []
  · constructor <;> exact fits (by decide)
  · constructor <;> decide
  · exact ⟨by decide, by decide, (bitWidthOk_iff _).mpr ⟨by decide, le_trans (by decide) width_ge⟩⟩

theorem inv_atKeyWitness (ws : List Nat) : Inv (atKeyWitness 7 .q 13 ws) := by
  refine inv_outside (s := atKeyWitness 7 .q 13 []) ⟨?_, ?_, ?_⟩ ws []
  · constructor <;> exact fits (by decide)
  · constructor <;> decide
  · exact ⟨by decide, by decide, (keySizeOk_iff _).mpr ⟨by decide, by decide, le_trans (by decide) width_ge⟩,
      ⟨by decide, by decide, by decide⟩, ⟨by decide, by decide, by decide⟩, by decide, by decide⟩

theorem inv_keySizeRefused : Inv (busyWith 6#32 0 0 0 7#32 0#32 0#32 []) where
  words := by constructor <;> exact fits (by decide)
  flags := by constructor <;> decide
  phase := trivial

theorem witness_StepRunsDecodedCommand :
    let s := busyWith 1#32 7 8 5 0#32 0#32 0#32 []
    s.busy = true ∧ decode s.opc = .ok .modmul ∧ Instr.wf .modmul = true ∧ s.host = [] ∧
      { s with host := [.wait] }.host = [.wait] ∧ { s with host := [.pause] }.host = [.pause] := by decide

theorem witness_FetchedWordRuns : decodeTableWord 32 7 = some .transform := by decide

/-- The datum at the top of the port's range. -/
theorem witness_AcceptanceOpensBusyWindow :
    let s := { State.reset with host := [.act (.write 8#4 (2 ^ Config.W - 1))] }
    s.busy = false ∧ 2 ^ Config.W - 1 < 2 ^ Config.W ∧ s.host = [.act (.write 8#4 (2 ^ Config.W - 1))] :=
  ⟨by decide, widest, rfl⟩

/-- Every index, idle and busy, with the widest datum. -/
theorem witness_HostWriteByIndex (idx : RegIndex) :
    2 ^ Config.W - 1 < 2 ^ Config.W ∧
      (∃ s : State, s.busy = false ∧ s.host = [.act (.write idx (2 ^ Config.W - 1))]) ∧
      ∃ s : State, s.busy = true ∧ s.host = [.act (.write idx (2 ^ Config.W - 1))] :=
  ⟨widest, ⟨{ State.reset with host := [.act (.write idx (2 ^ Config.W - 1))] }, busy_0, rfl⟩,
    ⟨{ accept 1#32 State.reset with host := [.act (.write idx (2 ^ Config.W - 1))] }, busy_1, rfl⟩⟩

/-- Both clauses: RES1 while busy, and every index while idle. -/
theorem witness_HostReadByIndex (idx : RegIndex) :
    (∃ s : State, s.host = [.act (.read 4#4)] ∧ s.busy = true ∧ (4#4).toNat = 4) ∧
      ∃ s : State, s.host = [.act (.read idx)] ∧ s.busy = false :=
  ⟨⟨{ accept 1#32 State.reset with host := [.act (.read 4#4)] }, rfl, by decide, by decide⟩,
    ⟨{ State.reset with host := [.act (.read idx)] }, rfl, busy_0⟩⟩

theorem witness_HostReadsAreWBit : ∃ s : State, Inv s ∧ s.host = [.act (.read 3#4)] := by
  exact ⟨{ atTestWitness [] with host := [.act (.read 3#4)] }, inv_outside (inv_atTestWitness []) [] _, rfl⟩

theorem witness_TooWideDatumRefused :
    ∃ s : State, 2 ^ Config.W ≤ 2 ^ Config.W ∧ s.host = [.act (.write 8#4 (2 ^ Config.W))] :=
  ⟨{ State.reset with host := [.act (.write 8#4 (2 ^ Config.W))] }, le_rfl, rfl⟩

theorem witness_IdleBlockDoesNothing :
    State.reset.busy = false ∧ State.reset.host = [] ∧
      { State.reset with host := [.wait] }.host = [.wait] ∧
      { State.reset with host := [.pause] }.host = [.pause] := by decide

theorem witness_ResetGivesSpecValues : ∃ s : State, s.busy = true ∧ s.host = [.act .reset] :=
  ⟨{ atTestWitness [2, 3] with host := [.act .reset] }, by decide, rfl⟩

/-- Without and with a draw outstanding. -/
theorem witness_ResetKeepsRandomSource :
    (∃ s : State, s.host = [.act .reset] ∧ drawRequest s = none) ∧
      ∃ s : State, s.host = [.act .reset] ∧ drawRequest s = some (2, 3) :=
  ⟨⟨{ State.reset with host := [.act .reset] }, rfl, by decide⟩,
    ⟨{ atTestWitness [2, 3] with host := [.act .reset] }, rfl, by decide⟩⟩

/-- The two clauses at their boundaries: the word 0 (from a datum above 32 bits), and the word 8. -/
theorem witness_IllegalWordCompletesAtOnce :
    (∃ s : State, s.busy = false ∧ 2 ^ 32 < 2 ^ Config.W ∧ s.host = [.act (.write 8#4 (2 ^ 32))] ∧
        2 ^ 32 % 2 ^ 32 = 0) ∧
      ∃ s : State, s.busy = false ∧ 8 < 2 ^ Config.W ∧ s.host = [.act (.write 8#4 8)] ∧ 8 ≤ 8 % 2 ^ 32 :=
  ⟨⟨{ State.reset with host := [.act (.write 8#4 (2 ^ 32))] }, by decide, fits (by decide), rfl, by decide⟩,
    ⟨{ State.reset with host := [.act (.write 8#4 8)] }, by decide, fits (by decide), rfl, by decide⟩⟩

theorem witness_BusyInputsStable :
    ∃ s t : State, s.busy = true ∧ s.host.head? ≠ some (.act .reset) ∧ step s = .next t := by
  obtain ⟨t, h⟩ := goesOn_next (r := step (atTestWitness [2, 3])) (by decide +kernel)
  exact ⟨_, t, by decide, by decide, h⟩

theorem witness_CompletionStateLasts :
    ∃ s t : State, s.busy = false ∧ step s = .next t ∧ s.host.head? ≠ some (.act .reset) ∧
      ∀ v, s.host.head? ≠ some (.act (.write 8#4 v)) :=
  ⟨{ State.reset with status := 0x6#32, errcode := 2#32, host := [.act (.read 10#4)] }, _, by decide, rfl,
    by decide, by intro v; simp⟩

/-- A step that draws, a step that does not, and a reset that abandons a draw. -/
theorem witness_DrawsOnlyInDrawingCommands :
    (∃ t, step (atTestWitness [2, 3]) = .next t) ∧ (∃ t, step State.reset = .next t) ∧
      ∃ t, step { atTestWitness [2, 3] with host := [.act .reset] } = .next t :=
  ⟨goesOn_next (by decide +kernel), goesOn_next (by decide +kernel), _, rfl⟩

/-- A witness draw and a candidate draw. -/
theorem witness_DrawRequestsAreLegal :
    (Inv (atTestWitness []) ∧ drawRequest (atTestWitness []) = some (2, 3)) ∧
      Inv (atGenCandidate []) ∧ drawRequest (atGenCandidate []) = some (8, 15) :=
  ⟨⟨inv_atTestWitness _, by decide⟩, inv_atGenCandidate _, by decide⟩

/-- No answer, and an answer just above the range. -/
theorem witness_UnansweredDrawWaitsForEver :
    (Inv (atTestWitness []) ∧ (atTestWitness []).host = [] ∧ drawRequest (atTestWitness []) = some (2, 3) ∧
        (atTestWitness []).rand.answers = []) ∧
      Inv (atTestWitness [4]) ∧ (atTestWitness [4]).host = [] ∧ drawRequest (atTestWitness [4]) = some (2, 3) ∧
        (atTestWitness [4]).rand.answers = [4] ∧ ¬ (2 ≤ 4 ∧ 4 ≤ 3) :=
  ⟨⟨inv_atTestWitness _, rfl, by decide, rfl⟩, inv_atTestWitness _, rfl, by decide, rfl, by decide⟩

/-- Answers at both ends of the range. -/
theorem witness_EveryLegalAnswerIsTaken :
    Inv (atTestWitness [2, 3]) ∧ (atTestWitness [2, 3]).host = [] ∧
      drawRequest (atTestWitness [2, 3]) = some (2, 3) ∧ nextAnswer (atTestWitness [2, 3]) 2 3 2 [3] ∧
      nextAnswer (atTestWitness [3]) 2 3 3 [] :=
  ⟨inv_atTestWitness _, rfl, by decide, ⟨rfl, by decide, by decide⟩, rfl, by decide, by decide⟩

theorem witness_ModmulResult : (idle 7 8 1).opm ≠ 0 ∧ (idle 7 8 0).opm = 0 := by decide

theorem witness_ModexpResult : (idle 9 9 1).opm ≠ 0 ∧ (idle 3 4 0).opm = 0 := by decide

/-- The three clauses, with `OPM = 1` among the first. -/
theorem witness_ModinvResult :
    ((idle 0 0 1).opm ≠ 0 ∧ Nat.gcd (idle 0 0 1).opa (idle 0 0 1).opm = 1) ∧
      ((idle 5 0 5).opm ≠ 0 ∧ Nat.gcd (idle 5 0 5).opa (idle 5 0 5).opm ≠ 1) ∧ (idle 1 0 0).opm = 0 := by decide

theorem witness_TransformResult : (idle 42 7 143).opm ≠ 0 ∧ (idle 42 7 0).opm = 0 := by decide

theorem witness_RsaRoundTrip :
    Nat.Prime 11 ∧ Nat.Prime 13 ∧ 11 ≠ 13 ∧ 103 * 7 ≡ 1 [MOD (11 - 1) * (13 - 1)] ∧ 142 < 11 * 13 :=
  ⟨by norm_num, by norm_num, by decide, by decide, by decide⟩

/-- Each of the four pseudo-commands, with a modulus and with `n = 0`. -/
theorem witness_PseudoCommandsTransform (n : Nat) (hn : n = 143 ∨ n = 0) :
    ∀ c ∈ [HostStmt.encrypt 3 7 n, HostStmt.decrypt 3 7 n, HostStmt.sign 3 7 n, HostStmt.verify 3 7 n],
      ∃ s : State, s.busy = false ∧ s.host = expandStmt c ∧ 3 < 2 ^ Config.W ∧ 7 < 2 ^ Config.W ∧
        n < 2 ^ Config.W := by
  intro c _
  refine ⟨{ State.reset with host := expandStmt c }, busy_0, rfl, fits (by decide), fits (by decide), fits ?_⟩
  omega

theorem witness_ModPowLoopInvariant : 2 ≤ 2 := le_rfl

/-- Before the last iteration, and fuel that is just enough. -/
theorem witness_ModPowRunsBitlenIterations : 3 < bitlen 13 ∧ bitlen 13 ≤ 4 := by decide +kernel

/-- The candidate 1; 2 and 3 under the tight range; 4 with ROUNDS = 0; 4 under the tight range and 2 under the loose
one. -/
theorem witness_PrimetestEntry :
    (∃ s : State, s.phase = .entry ∧ s.opa = 1 ∧ s.opa < 2) ∧
      (∃ s : State, s.phase = .entry ∧ s.opa = 2 ∧ emptyWitnessRange s.loose s.opa) ∧
      (∃ s : State, s.phase = .entry ∧ s.opa = 3 ∧ emptyWitnessRange s.loose s.opa) ∧
      (∃ s : State, s.phase = .entry ∧ s.opa = 4 ∧ s.rounds = 0#32) ∧
      (∃ s : State, s.phase = .entry ∧ s.opa = 4 ∧ ¬ emptyWitnessRange s.loose s.opa ∧ s.rounds ≠ 0#32) ∧
      ∃ s : State, s.phase = .entry ∧ s.opa = 2 ∧ ¬ emptyWitnessRange s.loose s.opa ∧ s.rounds ≠ 0#32 := by
  unfold emptyWitnessRange
  exact ⟨⟨busyWith 4#32 1 0 0 0#32 5#32 0#32 [], by decide⟩, ⟨busyWith 4#32 2 0 0 0#32 5#32 0#32 [], by decide⟩,
    ⟨busyWith 4#32 3 0 0 0#32 5#32 0#32 [], by decide⟩, ⟨busyWith 4#32 4 0 0 0#32 0#32 0#32 [], by decide⟩,
    ⟨busyWith 4#32 4 0 0 0#32 1#32 0#32 [], by decide⟩, ⟨busyWith 4#32 2 0 0 0#32 2#32 1#32 [1, 1], by decide⟩⟩

/-- A witness that fails (2 for 4), one that passes with a trial left, and one that passes the last trial. -/
theorem witness_PrimetestTrial :
    (∃ s : State, s.phase = .testWitness ∧ 2 ≤ s.tst.cand ∧ s.tst.trial.toNat < s.rounds.toNat ∧
        nextAnswer s (witnessLo s) (witnessHi s) 2 [] ∧ ¬ FermatPass s.tst.cand 2) ∧
      (∃ s : State, s.phase = .testWitness ∧ 2 ≤ s.tst.cand ∧ s.tst.trial.toNat + 1 < s.rounds.toNat ∧
        nextAnswer s (witnessLo s) (witnessHi s) 2 [3] ∧ FermatPass s.tst.cand 2) ∧
      ∃ s : State, s.phase = .testWitness ∧ 2 ≤ s.tst.cand ∧ s.tst.trial.toNat + 1 = s.rounds.toNat ∧
        nextAnswer s (witnessLo s) (witnessHi s) 3 [] ∧ FermatPass s.tst.cand 3 := by
  unfold nextAnswer
  exact ⟨⟨{ atTestWitness [2] with tst := { cand := 4, wit := 0, trial := 0#32 } }, by decide +kernel⟩,
    ⟨atTestWitness [2, 3], by decide +kernel⟩,
    ⟨{ atTestWitness [3] with tst := { cand := 5, wit := 2, trial := 1#32 } }, by decide +kernel⟩⟩

theorem witness_PrimeNeverRejected :
    ∃ (s t : State) (n : Nat), s.busy = true ∧ s.opc = 4#32 ∧ s.phase = .entry ∧ s.host = [] ∧ s.opa.Prime ∧
      steps n s = .next t ∧ t.busy = false := by
  refine ⟨busyWith 4#32 3 0 0 0#32 1000#32 0#32 [], _, 1, by decide, by decide, rfl, rfl, ?_, rfl, rfl⟩
  exact Nat.prime_three

/-- Two trials of 5 that pass, and one of 4 that fails. -/
theorem witness_PrimetestRefinesTest :
    (∃ s : State, s.busy = true ∧ s.opc = 4#32 ∧ s.phase = .entry ∧ s.host = [] ∧
        ProbablePrime s.loose s.roundsNat s.opa s.rand.answers true []) ∧
      ∃ s : State, s.busy = true ∧ s.opc = 4#32 ∧ s.phase = .entry ∧ s.host = [] ∧
        ProbablePrime s.loose s.roundsNat s.opa s.rand.answers false [9] := by
  refine ⟨⟨busyWith 4#32 5 0 0 0#32 2#32 0#32 [2, 3], by decide, by decide, rfl, rfl, ?_⟩,
    ⟨busyWith 4#32 4 0 0 0#32 3#32 0#32 [2, 9], by decide, by decide, rfl, rfl, ?_⟩⟩
  · exact .tight _ _ _ rfl (by decide)
      (.pass 1 2 _ _ _ (by decide) (by decide) (by decide) (.pass 0 3 _ _ _ (by decide) (by decide) (by decide) (.done _)))
  · exact .tight _ _ _ rfl (by decide) (.reject 2 2 _ (by decide) (by decide) (by decide))

/-- SIZE = 0 and SIZE = 1. A SIZE above W cannot be exhibited, since W has no fixed value. -/
theorem witness_PrimegenEntry :
    ((busyWith 5#32 0 0 0 0#32 0#32 0#32 []).phase = .entry ∧
        (busyWith 5#32 0 0 0 0#32 0#32 0#32 []).size.toNat = 0) ∧
      (busyWith 5#32 0 0 0 1#32 0#32 0#32 []).size.toNat ≠ 0 ∧
      (busyWith 5#32 0 0 0 1#32 0#32 0#32 []).size.toNat ≤ Config.W :=
  ⟨⟨rfl, by decide⟩, by decide, le_trans (by decide) width_ge⟩

/-- The candidates 1 (SIZE = 1), 2 under the tight range (SIZE = 2), 8 with ROUNDS = 0, and 8 (SIZE = 4). -/
theorem witness_PrimegenCandidate :
    (∃ s : State, s.phase = .genCandidate ∧ s.size ≠ 0#32 ∧
        nextAnswer s (2 ^ (s.size.toNat - 1)) (2 ^ s.size.toNat - 1) 1 [1]) ∧
      (∃ s : State, s.phase = .genCandidate ∧ s.size ≠ 0#32 ∧
        nextAnswer s (2 ^ (s.size.toNat - 1)) (2 ^ s.size.toNat - 1) 2 [] ∧ emptyWitnessRange s.loose 2) ∧
      (∃ s : State, s.phase = .genCandidate ∧ s.size ≠ 0#32 ∧
        nextAnswer s (2 ^ (s.size.toNat - 1)) (2 ^ s.size.toNat - 1) 8 [] ∧ s.rounds = 0#32) ∧
      ∃ s : State, s.phase = .genCandidate ∧ s.size ≠ 0#32 ∧
        nextAnswer s (2 ^ (s.size.toNat - 1)) (2 ^ s.size.toNat - 1) 8 [] ∧ ¬ emptyWitnessRange s.loose 8 ∧
        s.rounds ≠ 0#32 := by
  unfold nextAnswer emptyWitnessRange
  exact ⟨⟨hangingGen, by decide⟩, ⟨{ atGenCandidate [2] with size := 2#32 }, by decide⟩,
    ⟨{ atGenCandidate [8] with rounds := 0#32 }, by decide⟩, ⟨atGenCandidate [8], by decide⟩⟩

/-- A witness that fails (2 for 9), one that passes with a trial left, and one that passes the last trial. -/
theorem witness_PrimegenTrial :
    (∃ s : State, s.phase = .genWitness ∧ 2 ≤ s.tst.cand ∧ s.tst.trial.toNat < s.rounds.toNat ∧
        nextAnswer s (witnessLo s) (witnessHi s) 2 [] ∧ ¬ FermatPass s.tst.cand 2) ∧
      (∃ s : State, s.phase = .genWitness ∧ 2 ≤ s.tst.cand ∧ s.tst.trial.toNat + 1 < s.rounds.toNat ∧
        nextAnswer s (witnessLo s) (witnessHi s) 2 [] ∧ FermatPass s.tst.cand 2) ∧
      ∃ s : State, s.phase = .genWitness ∧ 2 ≤ s.tst.cand ∧ s.tst.trial.toNat + 1 = s.rounds.toNat ∧
        nextAnswer s (witnessLo s) (witnessHi s) 11 [] ∧ FermatPass s.tst.cand 11 := by
  unfold nextAnswer
  exact ⟨⟨atGenWitness 9 0#32 [2], by decide +kernel⟩, ⟨atGenWitness 13 0#32 [2], by decide +kernel⟩,
    ⟨atGenWitness 13 1#32 [11], by decide +kernel⟩⟩

theorem witness_PrimegenResultHasSizeBits :
    ∃ s t : State, Inv s ∧ s.busy = true ∧ s.opc = 5#32 ∧ exec .primegen s = .next t ∧ t.busy = false ∧
      t.err = false := by
  obtain ⟨t, h, hb, he⟩ := succeeds_next (r := exec .primegen (atGenWitness 13 1#32 [5])) (by decide +kernel)
  exact ⟨_, t, inv_atGenWitness _, by decide, by decide, h, hb, he⟩

/-- One candidate, the even 8 with ROUNDS = 0, and a rejected candidate 9 before 13. -/
theorem witness_PrimegenRefinesGenerator :
    ∃ s : State, s.busy = true ∧ s.opc = 5#32 ∧ s.phase = .entry ∧ s.host = [] ∧ s.size.toNat ≠ 0 ∧
      s.size.toNat ≤ Config.W ∧ GeneratesPrime s.loose s.roundsNat s.size.toNat s.rand.answers 2 13 [] := by
  refine ⟨busyWith 5#32 0 0 0 4#32 2#32 0#32 [9, 2, 13, 2, 5], by decide, by decide, rfl, rfl, by decide,
    le_trans (by decide) width_ge, ?_⟩
  exact .retry 9 1 13 _ _ _ (by decide) (by decide)
    (.tight _ _ _ rfl (by decide) (.reject 1 2 _ (by decide) (by decide) (by decide)))
    (.accept 13 _ _ (by decide) (by decide)
      (.tight _ _ _ rfl (by decide)
        (.pass 1 2 _ _ _ (by decide) (by decide) (by decide)
          (.pass 0 5 _ _ _ (by decide) (by decide) (by decide) (.done _)))))

theorem witness_HangingConfigurationsStayBusy :
    (∃ t, Hangs hangingGen ∧ steps 1 hangingGen = .next t) ∧
      Hangs { busyWith 6#32 0 0 0 2#32 1#32 0#32 [1] with phase := .keyCandidate .p } :=
  ⟨⟨_, ⟨by decide, .inl ⟨rfl, rfl, .inr rfl⟩, by simp [hangingGen, busyWith, State.reset]⟩, rfl⟩,
    ⟨by decide, .inr ⟨rfl, rfl, .inr rfl⟩, by simp [busyWith, State.reset]⟩⟩

/-- SIZE = 0, SIZE = 7 (odd), and SIZE = 2. A SIZE above W cannot be exhibited, since W has no fixed value. -/
theorem witness_KeygenEntry :
    ((busyWith 6#32 0 0 0 0#32 0#32 0#32 []).phase = .entry ∧
        (busyWith 6#32 0 0 0 0#32 0#32 0#32 []).size.toNat = 0) ∧
      (busyWith 6#32 0 0 0 7#32 0#32 0#32 []).size.toNat % 2 = 1 ∧
      (busyWith 6#32 0 0 0 2#32 0#32 0#32 []).size.toNat ≠ 0 ∧
      (busyWith 6#32 0 0 0 2#32 0#32 0#32 []).size.toNat % 2 = 0 ∧
      (busyWith 6#32 0 0 0 2#32 0#32 0#32 []).size.toNat ≤ Config.W :=
  ⟨⟨rfl, by decide⟩, by decide, by decide, by decide, le_trans (by decide) width_ge⟩

/-- The candidate 1 (SIZE = 2) and the candidate 8, for either slot. -/
theorem witness_KeygenCandidate (k : KeySlot) :
    (∃ s : State, s.phase = .keyCandidate k ∧
        nextAnswer s (2 ^ (s.size.toNat / 2 - 1)) (2 ^ (s.size.toNat / 2) - 1) 1 [] ∧ 1 < 2) ∧
      ∃ s : State, s.phase = .keyCandidate k ∧
        nextAnswer s (2 ^ (s.size.toNat / 2 - 1)) (2 ^ (s.size.toNat / 2) - 1) 8 [] ∧
        ¬ emptyWitnessRange s.loose 8 ∧ s.rounds ≠ 0#32 := by
  unfold nextAnswer emptyWitnessRange
  cases k
  · exact ⟨⟨atKeyCandidate .p 2#32 2#32 [1], by decide⟩, ⟨atKeyCandidate .p 8#32 2#32 [8], by decide⟩⟩
  · exact ⟨⟨atKeyCandidate .q 2#32 2#32 [1], by decide⟩, ⟨atKeyCandidate .q 8#32 2#32 [8], by decide⟩⟩

/-- A witness that fails (2 for 9, in the last trial) and one that passes with a trial left, for either slot. -/
theorem witness_KeygenTrial (k : KeySlot) :
    (∃ s : State, s.phase = .keyWitness k ∧ 2 ≤ s.tst.cand ∧ s.tst.trial.toNat < s.rounds.toNat ∧
        nextAnswer s (witnessLo s) (witnessHi s) 2 [] ∧ ¬ FermatPass s.tst.cand 2) ∧
      ∃ s : State, s.phase = .keyWitness k ∧ 2 ≤ s.tst.cand ∧ s.tst.trial.toNat < s.rounds.toNat ∧
        nextAnswer s (witnessLo s) (witnessHi s) 2 [] ∧ FermatPass s.tst.cand 2 ∧
        s.tst.trial.toNat + 1 < s.rounds.toNat := by
  unfold nextAnswer
  cases k
  · exact ⟨⟨atKeyWitness 7 .p 9 [2], by decide +kernel⟩,
      ⟨{ atKeyWitness 7 .p 11 [2] with rounds := 3#32 }, by decide +kernel⟩⟩
  · exact ⟨⟨atKeyWitness 7 .q 9 [2], by decide +kernel⟩,
      ⟨{ atKeyWitness 7 .q 13 [2] with rounds := 3#32 }, by decide +kernel⟩⟩

/-- P by its last trial; 3 under the tight range; 8 with ROUNDS = 0. -/
theorem witness_KeygenFirstPrime :
    (∃ s r, FindsKeyPrime .p s 11 r 1) ∧ (∃ s r, FindsKeyPrime .p s 3 r 1) ∧ ∃ s r, FindsKeyPrime .p s 8 r 1 :=
  ⟨⟨atKeyWitness 7 .p 11 [3, 13], _,
      .lastTrial 3 [13] rfl (by decide) (by decide) ⟨rfl, by decide, by decide⟩ (by decide)⟩,
    ⟨atKeyCandidate .p 4#32 2#32 [3], _,
      .untested 3 [] rfl ⟨rfl, by decide, by decide⟩ (by decide) (.inl ⟨by decide, by decide⟩)⟩,
    ⟨atKeyCandidate .p 8#32 0#32 [8], _,
      .untested 8 [] rfl ⟨rfl, by decide, by decide⟩ (by decide) (.inr rfl)⟩⟩

/-- Q by its last trial, with an exponent that has an inverse and with one that has none; Q = 2 without a trial. -/
theorem witness_KeygenFinish :
    (∃ s r, FindsKeyPrime .q s 13 r 1 ∧ 2 ≤ s.key.p ∧ Nat.gcd s.opa ((s.key.p - 1) * (13 - 1)) = 1) ∧
      (∃ s r, FindsKeyPrime .q s 13 r 1 ∧ 2 ≤ s.key.p ∧ Nat.gcd s.opa ((s.key.p - 1) * (13 - 1)) ≠ 1) ∧
      ∃ s r, FindsKeyPrime .q s 2 r 1 ∧ 2 ≤ s.key.p ∧ Nat.gcd s.opa ((s.key.p - 1) * (2 - 1)) = 1 :=
  ⟨⟨atKeyWitness 7 .q 13 [5], _,
      .lastTrial 5 [] rfl (by decide) (by decide) ⟨rfl, by decide, by decide⟩ (by decide), by decide, by decide⟩,
    ⟨atKeyWitness 3 .q 13 [5], _,
      .lastTrial 5 [] rfl (by decide) (by decide) ⟨rfl, by decide, by decide⟩ (by decide), by decide, by decide⟩,
    ⟨atKeyCandidate .q 4#32 2#32 [2], _,
      .untested 2 [] rfl ⟨rfl, by decide, by decide⟩ (by decide) (.inl ⟨by decide, by decide⟩), by decide,
      by decide⟩⟩

theorem witness_KeyModulusBitLength :
    ∃ s t : State, Inv s ∧ s.busy = true ∧ s.opc = 6#32 ∧ exec .keygen s = .next t ∧ t.busy = false ∧
      t.err = false := by
  obtain ⟨t, h, hb, he⟩ := succeeds_next (r := exec .keygen (atKeyWitness 7 .q 13 [5])) (by decide +kernel)
  exact ⟨_, t, inv_atKeyWitness _, by decide, by decide, h, hb, he⟩

/-- The document's small key, with an exponent that has an inverse and one that has none. -/
theorem witness_KeygenRefinesKeyGeneration :
    let s := busyWith 6#32 7 0 0 8#32 2#32 0#32 [11, 2, 3, 13, 2, 5]
    (s.busy = true ∧ s.opc = 6#32 ∧ s.phase = .entry ∧ s.host = [] ∧ s.size.toNat ≠ 0 ∧ s.size.toNat % 2 = 0 ∧
        s.size.toNat ≤ Config.W ∧
        GeneratesPrime s.loose s.roundsNat (s.size.toNat / 2) s.rand.answers 1 11 [13, 2, 5] ∧
        GeneratesPrime s.loose s.roundsNat (s.size.toNat / 2) [13, 2, 5] 1 13 []) ∧
      Nat.gcd s.opa ((11 - 1) * (13 - 1)) = 1 ∧ Nat.gcd { s with opa := 3 }.opa ((11 - 1) * (13 - 1)) ≠ 1 := by
  refine ⟨⟨by decide, by decide, rfl, rfl, by decide, by decide, le_trans (by decide) width_ge, ?_, ?_⟩, by decide,
    by decide⟩
  · exact .accept 11 _ _ (by decide) (by decide)
      (.tight _ _ _ rfl (by decide)
        (.pass 1 2 _ _ _ (by decide) (by decide) (by decide)
          (.pass 0 3 _ _ _ (by decide) (by decide) (by decide) (.done _))))
  · exact .accept 13 _ _ (by decide) (by decide)
      (.tight _ _ _ rfl (by decide)
        (.pass 1 2 _ _ _ (by decide) (by decide) (by decide)
          (.pass 0 5 _ _ _ (by decide) (by decide) (by decide) (.done _))))

theorem witness_EveryStepKeepsInvariant : ∃ s t : State, Inv s ∧ step s = .next t := by
  obtain ⟨t, h⟩ := goesOn_next (r := step (atTestWitness [2, 3])) (by decide +kernel)
  exact ⟨_, t, inv_atTestWitness _, h⟩

theorem witness_CommandsKeepInputs : ∃ t : State, exec .modmul (idle 7 8 5) = .next t :=
  goesOn_next (by decide +kernel)

theorem witness_NoOldResultSurvives :
    ∃ s t : State, s.busy = true ∧ exec .modmul s = .next t ∧ t.busy = false :=
  ⟨busyWith 1#32 7 8 5 0#32 0#32 0#32 [], complete 1 0 false _, by decide, rfl, by simp⟩

/-- A command that goes on, one that completes, and entry checks that fail. -/
theorem witness_UnitsKeepOtherRegisters :
    (∃ t, exec .primetest (atTestWitness [2, 3]) = .next t) ∧ (∃ t, exec .modmul (idle 7 8 5) = .next t) ∧
      (∃ t, exec .modexp (idle 3 4 0) = .next t) ∧ (∃ t, exec .modinv (idle 3 4 0) = .next t) ∧
      (∃ t, exec .primegen (busyWith 5#32 0 0 0 0#32 0#32 0#32 []) = .next t) ∧
      ∃ t, exec .keygen (busyWith 6#32 0 0 0 7#32 0#32 0#32 []) = .next t :=
  ⟨goesOn_next (by decide +kernel), goesOn_next (by decide +kernel), goesOn_next (by decide +kernel),
    goesOn_next (by decide +kernel), goesOn_next (by decide +kernel), goesOn_next (by decide +kernel)⟩

theorem witness_HiddenRegistersNeverSeen : (busyWith 4#32 5 0 0 0#32 2#32 0#32 [2, 3]).phase = .entry := rfl

theorem witness_ErrorKindsPerCommand :
    ∃ s t : State, Inv s ∧ s.busy = true ∧ exec .keygen s = .next t ∧ t.err = true :=
  ⟨_, errorComplete .invalidBitWidth _, inv_keySizeRefused, by decide, rfl, by simp⟩

theorem witness_DrawFreeCommandsComplete : drawing .modinv = false := rfl

end Sys2Proof.Tests
end

/-! PROOFS. The state: what is so after reset, what every step keeps, what a command leaves as it is, and what the
host cannot see. -/

namespace Sys2Proof.Machine

open Sys2Proof.Safety

/-! ### Outcomes whose next state meets a predicate -/

/-- If the outcome is a next state, that state meets `P`. -/
def nextMeets (P : State → Prop) : Result → Prop
  | .next t => P t
  | .fault _ => True
  | .refused _ => True

theorem nextMeets_iff {P : State → Prop} {r : Result} : nextMeets P r ↔ ∀ t, r = .next t → P t := by
  cases r <;> simp [nextMeets]

/-- A draw meets `P` when waiting does and every answer in range does. -/
theorem draw_nextMeets {P : State → Prop} {range : Nat × Nat} {k : Nat → State → Result} {s : State} (hs : P s)
    (hk : ∀ v r, range.1 ≤ v → v ≤ range.2 → nextMeets P (k v { s with rand := r })) :
    nextMeets P (draw range k s) := by
  obtain ⟨-, e⟩ | ⟨v, ws, -, h1, h2, e⟩ | ⟨v, ws, -, -, e⟩ := draw_cases range k s <;> rw [e]
  · exact hs
  · exact hk v _ h1 h2
  · exact trivial

/-! ### Other values in the working registers -/

section WithScratch

variable (e : ExpRegs) (v : InvRegs) (u : TesterRegs) (k : KeyRegs) (s : State)

@[simp] theorem withScratch_opa : (withScratch e v u k s).opa = s.opa := rfl
@[simp] theorem withScratch_opb : (withScratch e v u k s).opb = s.opb := rfl
@[simp] theorem withScratch_opm : (withScratch e v u k s).opm = s.opm := rfl
@[simp] theorem withScratch_opc : (withScratch e v u k s).opc = s.opc := rfl
@[simp] theorem withScratch_exp : (withScratch e v u k s).exp = e := rfl
@[simp] theorem withScratch_tst : (withScratch e v u k s).tst = u := rfl
@[simp] theorem withScratch_key : (withScratch e v u k s).key = k := rfl
@[simp] theorem withScratch_phase : (withScratch e v u k s).phase = s.phase := rfl
@[simp] theorem withScratch_rand : (withScratch e v u k s).rand = s.rand := rfl
@[simp] theorem withScratch_host : (withScratch e v u k s).host = s.host := rfl
@[simp] theorem withScratch_busy : (withScratch e v u k s).busy = s.busy := rfl
@[simp] theorem withScratch_loose : (withScratch e v u k s).loose = s.loose := rfl
@[simp] theorem withScratch_sizeNat : (withScratch e v u k s).sizeNat = s.sizeNat := rfl
@[simp] theorem withScratch_primeWidth : (withScratch e v u k s).primeWidth = s.primeWidth := rfl

end WithScratch

/-! ### The opcode behind a decoded word -/

theorem zeroField_append_opcodeField (w : CtlWord) : zeroField w ++ opcodeField w = w := by
  ext i hi
  simp only [zeroField, opcodeField, BitVec.getElem_append, BitVec.getElem_extractLsb']
  split
  · simp [BitVec.getLsbD_eq_getElem hi]
  · next h => rw [Nat.add_sub_cancel' (by omega), BitVec.getLsbD_eq_getElem hi]

theorem opcodeOf_of_decodeOpcode {op : BitVec 4} {i : Instr} (h : decodeOpcode op = .ok i) : op = opcodeOf i := by
  revert h
  cases i <;> revert op <;> decide

/-- Only a command's own word decodes to it (30_encoding.md R93). -/
theorem eq_encode_of_decode {w : CtlWord} {i : Instr} (h : decode w = .ok i) : w = encode i := by
  unfold decode at h
  split at h
  · next hz => rw [← zeroField_append_opcodeField w, hz, opcodeOf_of_decodeOpcode h, encode]
  · cases h

/-! ### What the tester changes -/

/-- The start of a test changes the tester's registers only. -/
theorem testBegin_frame (c : Nat) (s : State) : ∃ e v u, (testBegin c s).1 = withScratch e v u s.key s := by
  obtain ⟨-, e⟩ | ⟨-, -, -, e⟩ | ⟨-, -, -, e⟩ := testBegin_cases c s <;> exact e ▸ ⟨s.exp, s.inv, _, rfl⟩

/-- A trial changes the registers of the engine, of the inverse unit and of the tester only, whatever CAND holds. -/
theorem testTrial_frame (a : Nat) (s : State) : ∃ e v u, (testTrial a s).1 = withScratch e v u s.key s := by
  unfold testTrial
  simp only []
  split
  · exact ⟨s.exp, _, _, rfl⟩
  · split <;> exact ⟨_, _, _, rfl⟩

theorem testBegin_key (c : Nat) (s : State) : (testBegin c s).1.key = s.key := by
  obtain ⟨e, v, u, h⟩ := testBegin_frame c s
  rw [h, withScratch_key]

theorem testTrial_key (a : Nat) (s : State) : (testTrial a s).1.key = s.key := by
  obtain ⟨e, v, u, h⟩ := testTrial_frame a s
  rw [h, withScratch_key]

/-! ### The values the units leave fit their registers -/

theorem euclidLoop_bounds {b : Nat} (fuel : Nat) (r : InvRegs) (hp : r.rPrev < b) (hc : r.rCurr < b) :
    (euclidLoop fuel r).rPrev < b ∧ (euclidLoop fuel r).rCurr < b := by
  induction fuel generalizing r with
  | zero => exact ⟨hp, hc⟩
  | succ n ih =>
    unfold euclidLoop
    split
    · exact ⟨hp, hc⟩
    · exact ih (euclidStep r) hc (lt_of_le_of_lt (Nat.sub_le _ _) hp)

/-- No remainder exceeds both operands of the Euclid loop. -/
theorem euclid_bounds {b value modulus : Nat} (hv : value < b) (hm : modulus < b) :
    (euclid value modulus).rPrev < b ∧ (euclid value modulus).rCurr < b :=
  euclidLoop_bounds value _ hm hv

/-- The inverse unit leaves the registers of its Euclid loop. -/
theorem modInverse_regs (value modulus : Nat) : (modInverse value modulus).2 = euclid value modulus := by
  unfold modInverse
  simp only []
  split <;> rfl

theorem modInverse_lt {value modulus d : Nat} (hm : modulus ≠ 0) (h : (modInverse value modulus).1 = some d) :
    d < modulus := by
  by_cases hg : Nat.gcd value modulus = 1
  · obtain ⟨x, hx, hlt, -⟩ := modInverse_some hm hg
    rw [hx, Option.some.injEq] at h
    exact h ▸ hlt
  · rw [modInverse_none hg] at h
    cases h

theorem exactBits_lt_width {n v : Nat} (hn : n ≤ Config.W) (h : exactBits n v) : v < 2 ^ Config.W :=
  lt_of_lt_of_le h.2 (Nat.pow_le_pow_right (by decide) hn)

/-- The product of two primes of half a key size fits (46_keypair_generator.md R225). -/
theorem exactBits_mul_lt_width {n p q : Nat} (hn : n ≤ Config.W) (hp : exactBits (n / 2) p)
    (hq : exactBits (n / 2) q) : p * q < 2 ^ Config.W :=
  calc p * q < 2 ^ (n / 2) * 2 ^ (n / 2) := Nat.mul_lt_mul'' hp.2 hq.2
    _ = 2 ^ (n / 2 + n / 2) := (pow_add ..).symm
    _ ≤ 2 ^ Config.W := Nat.pow_le_pow_right (by decide) (by omega)

/-- A value in a candidate range has exactly its bits (45_prime_generator.md R202). -/
theorem exactBits_of_candidateRange {n v : Nat} (h1 : (candidateRange n).1 ≤ v) (h2 : v ≤ (candidateRange n).2) :
    exactBits n v := by
  have hpos : 0 < 2 ^ n := by positivity
  simp only [candidateRange] at h1 h2
  exact ⟨h1, by omega⟩

/-! ### The invariant: what keeps it -/

/-- The invariant says nothing of TRIES, the random source, the host or the counter of free values. -/
theorem inv_changeOutside {s : State} {tr : CtlWord} {r : RandomSource} {es : List HostEvent}
    {rs : List HostReadRecord} {n : Nat} (h : Inv s) :
    Inv { s with tries := tr, rand := r, host := es, reads := rs, fresh := n } where
  words := { h.words with }
  flags := { h.flags with }
  phase := h.phase

/-- While idle nothing but the entry is a phase. -/
theorem phase_entry_of_idle {s : State} (h : Inv s) (hb : s.busy = false) : s.phase = .entry := by
  have hp := h.phase
  cases e : s.phase <;> simp_all [phaseOk]

theorem phaseOk_entry {s : State} (h : s.phase = .entry) : phaseOk s := by
  simp [phaseOk, h]

/-- The flags agree in a state without an error. -/
theorem flagsAgree_of_noError {s : State} (hs : s.status.toNat < 16) (hc : s.cfg.toNat < 2) (he : s.errcode = 0#32)
    (herr : s.err = false) (hb : s.busy = true → s.done = false ∧ s.flag = false)
    (hf : s.flag = true → s.done = true) : FlagsAgree s where
  statusReserved := hs
  cfgReserved := hc
  errcodeReserved := by simp [he]
  busyClean h := ⟨(hb h).1, herr, (hb h).2, he⟩
  errDone := by simp [herr]
  flagDone := hf
  errCode := by simp [herr, he]
  errZero := by simp [herr]

theorem inv_complete {r0 r1 : Nat} {s : State} (hw : WordsFit s) (hf : FlagsAgree s) (h0 : r0 < 2 ^ Config.W)
    (h1 : r1 < 2 ^ Config.W) (f : Bool) : Inv (complete r0 r1 f s) where
  words := { hw with res0 := h0, res1 := h1 }
  flags := flagsAgree_of_noError (statusWord_lt ..) hf.cfgReserved rfl (by simp) (by simp) (by simp)
  phase := trivial

theorem inv_accept {s : State} (hw : WordsFit s) (hf : FlagsAgree s) (w : CtlWord) : Inv (accept w s) where
  words := { hw with }
  flags := flagsAgree_of_noError (statusWord_lt ..) hf.cfgReserved rfl (by simp) (by simp) (by simp)
  phase := trivial

theorem errorKind_code_ne_zero (k : ErrorKind) : k.code ≠ 0#32 := by
  cases k <;> decide

theorem errorKind_code_lt (k : ErrorKind) : k.code.toNat < 8 := by
  cases k <;> decide

theorem inv_errorComplete {s : State} (hw : WordsFit s) (hf : FlagsAgree s) (k : ErrorKind) :
    Inv (errorComplete k s) where
  words := { hw with res0 := by positivity, res1 := by positivity }
  flags :=
    { statusReserved := statusWord_lt ..
      cfgReserved := hf.cfgReserved
      errcodeReserved := errorKind_code_lt k
      busyClean := by simp
      errDone := by simp
      flagDone := by simp
      errCode := by simp [errorKind_code_ne_zero]
      errZero := by simp }
  phase := trivial

/-- A command that goes on to wait for a draw changes the phase and no flag. -/
theorem inv_waits {s : State} {p : Phase} (hw : WordsFit s) (hf : FlagsAgree s)
    (hp : phaseOk { s with phase := p }) : Inv { s with phase := p } where
  words := { hw with }
  flags := { hf with }
  phase := hp

theorem inv_reset : Inv State.reset where
  words := by constructor <;> exact Nat.two_pow_pos Config.W
  flags := by constructor <;> decide
  phase := trivial

theorem inv_resetBlock (s : State) : Inv (resetBlock s) := by
  unfold resetBlock
  split
  · exact inv_changeOutside inv_reset
  · exact inv_changeOutside inv_reset

theorem inv_hostRead {s : State} (h : Inv s) (idx : RegIndex) : Inv (hostRead idx s) := by
  obtain e | e := hostRead_cases idx s <;> exact e ▸ inv_changeOutside h

theorem inv_hostWrite {s : State} (h : Inv s) (idx : RegIndex) {v : Nat} (hv : v < 2 ^ Config.W) :
    Inv (hostWrite idx v s) := by
  obtain e | ⟨hb, e⟩ := hostWrite_cases idx v s
  · rwa [e]
  · have hp := phase_entry_of_idle h hb
    obtain e | e | e | e | e | e | ⟨-, e⟩ := e <;> rw [e]
    · exact ⟨{ h.words with opa := hv }, { h.flags with }, phaseOk_entry hp⟩
    · exact ⟨{ h.words with opb := hv }, { h.flags with }, phaseOk_entry hp⟩
    · exact ⟨{ h.words with opm := hv }, { h.flags with }, phaseOk_entry hp⟩
    · exact ⟨{ h.words with }, { h.flags with }, phaseOk_entry hp⟩
    · exact ⟨{ h.words with }, { h.flags with }, phaseOk_entry hp⟩
    · refine ⟨{ h.words with }, { h.flags with cfgReserved := ?_ }, phaseOk_entry hp⟩
      rw [BitVec.toNat_ofNat]
      omega
    · exact inv_accept h.words h.flags _

theorem inv_hostAct {s : State} (h : Inv s) (a : HostAction) : nextMeets Inv (hostAct a s) := by
  cases a with
  | write idx v =>
    unfold hostAct
    simp only []
    split
    · next hv => exact inv_hostWrite h idx ((fitsW_iff v).mp hv)
    · exact trivial
  | read idx => exact inv_hostRead h idx
  | reset => exact inv_resetBlock s

/-! ### The invariant: the commands that do not draw -/

theorem inv_execModmul {s : State} (h : Inv s) : nextMeets Inv (execModmul s) := by
  unfold execModmul
  split
  · exact inv_errorComplete h.words h.flags _
  · next hm =>
    have hlt : modMul s.opa s.opb s.opm < s.opm := Nat.mod_lt _ (Nat.pos_of_ne_zero hm)
    exact inv_complete h.words h.flags (hlt.trans h.words.opm) (Nat.two_pow_pos _) _

/-- An invocation of the engine leaves values that fit in its registers. -/
theorem wordsFit_modPow {s : State} (h : WordsFit s) {b e m : Nat} (hm : m ≠ 0) (he : e < 2 ^ Config.W)
    (hmw : m < 2 ^ Config.W) : WordsFit { s with exp := (modPow s.exp b e m).2 } := by
  obtain hr | ⟨ha, hb, hx⟩ := modPow_regs s.exp b e m hm
  · rwa [hr]
  · exact { h with xAcc := ha.trans hmw, xBase := hb.trans hmw, xExp := hx.trans_lt he }

theorem inv_powCommand {s : State} (h : Inv s) : nextMeets Inv (powCommand s) := by
  unfold powCommand
  split
  · exact inv_errorComplete h.words h.flags _
  · next hm =>
    have hlt : (modPow s.exp s.opa s.opb s.opm).1 < s.opm := by
      rw [modPow_value _ _ _ _ hm]
      exact Nat.mod_lt _ (Nat.pos_of_ne_zero hm)
    exact inv_complete (wordsFit_modPow h.words hm h.words.opb h.words.opm) { h.flags with }
      (hlt.trans h.words.opm) (Nat.two_pow_pos _) _

/-- A run of the Euclid loop on values that fit leaves values that fit. -/
theorem wordsFit_euclid {s : State} (h : WordsFit s) {value modulus : Nat} (hv : value < 2 ^ Config.W)
    (hm : modulus < 2 ^ Config.W) : WordsFit { s with inv := euclid value modulus } :=
  { h with rPrev := (euclid_bounds hv hm).1, rCurr := (euclid_bounds hv hm).2 }

theorem inv_execModinv {s : State} (h : Inv s) : nextMeets Inv (execModinv s) := by
  have hw := wordsFit_euclid h.words h.words.opa h.words.opm
  rw [← modInverse_regs] at hw
  unfold execModinv
  split
  · exact inv_errorComplete h.words h.flags _
  · next hm =>
    simp only []
    split
    · next d hd =>
      exact inv_complete hw { h.flags with } ((modInverse_lt hm hd).trans h.words.opm) (Nat.two_pow_pos _) _
    · exact inv_errorComplete hw { h.flags with } _

/-! ### The invariant: the tester -/

/-- What an invocation of the tester leaves: only working registers have changed, they fit, CAND is `c`, and a wait
for a witness or a positive verdict says of `c` what the invariant needs. -/
structure Tested (s : State) (c : Nat) (x : State × TestProgress) : Prop where
  frame : ∃ e v u, x.1 = withScratch e v u s.key s
  fits : WordsFit x.1
  cand : x.1.tst.cand = c
  waits : x.2 = .needsWitness → testing x.1
  accepts : x.2 = .verdict true → 2 ≤ c

theorem lt_of_needsWitness {j n : Nat}
    (h : (if j < n then TestProgress.needsWitness else .verdict true) = .needsWitness) : j < n := by
  by_contra hn
  rw [if_neg hn] at h
  cases h

theorem testBegin_tested {s : State} {c : Nat} (h : WordsFit s) (hc : c < 2 ^ Config.W) :
    Tested s c (testBegin c s) := by
  have hframe := testBegin_frame c s
  obtain ⟨-, e⟩ | ⟨h2, -, -, e⟩ | ⟨h2, hr, -, e⟩ := testBegin_cases c s <;> rw [e] at hframe ⊢
  · exact ⟨hframe, { h with cand := hc }, rfl, nofun, nofun⟩
  · exact ⟨hframe, { h with cand := hc }, rfl, nofun, fun _ => h2⟩
  · exact ⟨hframe, { h with cand := hc }, rfl, fun hw => ⟨h2, hr, lt_of_needsWitness hw⟩, fun _ => h2⟩

theorem testTrial_tested {s : State} {a : Nat} (h : WordsFit s) (ht : testing s)
    (ha : a ≤ (witnessRange s.loose s.tst.cand).2) : Tested s s.tst.cand (testTrial a s) := by
  obtain ⟨h2, hr, -⟩ := ht
  have haw : a < 2 ^ Config.W := (ha.trans (witnessRange_le _ _)).trans_lt h.cand
  have hframe := testTrial_frame a s
  obtain ⟨e, v, he, rfl, hx⟩ := testTrial_cases a s (by omega)
  obtain ⟨hrPrev, hrCurr⟩ := euclid_bounds haw h.cand
  obtain ⟨hacc, hbase, hexp⟩ : e.xAcc < 2 ^ Config.W ∧ e.xBase < 2 ^ Config.W ∧ e.xExp < 2 ^ Config.W := by
    obtain rfl | ⟨h1, h3, h4⟩ := he
    · exact ⟨h.xAcc, h.xBase, h.xExp⟩
    · exact ⟨h1.trans h.cand, h3.trans h.cand, (h4.trans (Nat.sub_le _ _)).trans_lt h.cand⟩
  have hfits (n : CtlWord) : WordsFit
      { s with exp := e, inv := euclid a s.tst.cand, tst := { cand := s.tst.cand, wit := a, trial := n } } :=
    { h with xAcc := hacc, xBase := hbase, xExp := hexp, rPrev := hrPrev, rCurr := hrCurr, wit := haw }
  obtain ⟨-, e⟩ | ⟨-, e⟩ := hx <;> rw [e] at hframe ⊢
  · exact ⟨hframe, hfits _, rfl, fun hw => ⟨h2, hr, lt_of_needsWitness hw⟩, fun _ => h2⟩
  · exact ⟨hframe, hfits _, rfl, nofun, nofun⟩

theorem inv_primetestGo {s : State} {c : Nat} {x : State × TestProgress} (h : Tested s c x) (hf : FlagsAgree s)
    (hb : s.busy = true) (ho : s.opc = 4#32) : nextMeets Inv (primetestGo x) := by
  obtain ⟨t, p⟩ := x
  obtain ⟨⟨e, v, u, rfl⟩, hw, -, hwait, -⟩ := h
  cases p with
  | needsWitness => exact inv_waits hw { hf with } ⟨hb, ho, hwait rfl⟩
  | verdict b => exact inv_complete hw { hf with } (Nat.two_pow_pos _) (Nat.two_pow_pos _) b

theorem inv_execPrimetest {s : State} (h : Inv s) (hb : s.busy = true) (ho : s.opc = 4#32) :
    nextMeets Inv (exec .primetest s) := by
  by_cases hp : s.phase = .testWitness
  · obtain ⟨-, -, ht⟩ : s.busy = true ∧ s.opc = 4#32 ∧ testing s := by simpa [phaseOk, hp] using h.phase
    rw [exec_primetest_testWitness hp, ← witnessRange_eq]
    refine draw_nextMeets h fun a r _ ha => ?_
    have hr : Inv { s with rand := r } := inv_changeOutside h
    exact inv_primetestGo (testTrial_tested hr.words ht ha) hr.flags hb ho
  · rw [exec_primetest_entry hp]
    exact inv_primetestGo (testBegin_tested h.words h.words.opa) h.flags hb ho

/-! ### The invariant: prime generation -/

theorem inv_primegenGo {s : State} {c : Nat} {x : State × TestProgress} (h : Tested s c x) (hf : FlagsAgree s)
    (hb : s.busy = true) (ho : s.opc = 5#32) (hn : bitWidthOk s.sizeNat = true) (hc : exactBits s.sizeNat c) :
    nextMeets Inv (primegenGo x) := by
  obtain ⟨t, p⟩ := x
  obtain ⟨⟨e, v, u, rfl⟩, hw, rfl, hwait, -⟩ := h
  match p with
  | .needsWitness => exact inv_waits hw { hf with } ⟨hb, ho, hn, hwait rfl, hc⟩
  | .verdict false => exact inv_waits hw { hf with } ⟨hb, ho, hn⟩
  | .verdict true => exact inv_complete hw { hf with } hw.cand (Nat.two_pow_pos _) false

/-- A drawn candidate that fits is counted and taken by the tester. -/
theorem genCandidateDrawn_tested {s : State} {c : Nat} (h : WordsFit s) (hc : c < 2 ^ Config.W) :
    Tested { s with tries := bumpTries s.tries } c (genCandidateDrawn c s) :=
  testBegin_tested { h with } hc

theorem inv_execPrimegen {s : State} (h : Inv s) (hb : s.busy = true) (ho : s.opc = 5#32) :
    nextMeets Inv (exec .primegen s) := by
  by_cases hp : s.phase = .genCandidate
  · obtain ⟨-, -, hn⟩ : s.busy = true ∧ s.opc = 5#32 ∧ bitWidthOk s.sizeNat = true := by
      simpa [phaseOk, hp] using h.phase
    rw [exec_primegen_genCandidate hp]
    refine draw_nextMeets h fun c r h1 h2 => ?_
    have hc : exactBits s.sizeNat c := exactBits_of_candidateRange h1 h2
    have hcw := exactBits_lt_width ((bitWidthOk_iff _).mp hn).2 hc
    exact inv_primegenGo (genCandidateDrawn_tested { h.words with } hcw) { h.flags with } hb ho hn hc
  by_cases hp' : s.phase = .genWitness
  · obtain ⟨-, -, hn, ht, hc⟩ : s.busy = true ∧ s.opc = 5#32 ∧ bitWidthOk s.sizeNat = true ∧ testing s ∧
        exactBits s.sizeNat s.tst.cand := by
      simpa [phaseOk, hp'] using h.phase
    rw [exec_primegen_genWitness hp', ← witnessRange_eq]
    refine draw_nextMeets h fun a r _ ha => ?_
    have hr : Inv { s with rand := r } := inv_changeOutside h
    exact inv_primegenGo (testTrial_tested hr.words ht ha) hr.flags hb ho hn hc
  · rw [exec_primegen_entry hp hp']
    split
    · next hn => exact inv_waits { h.words with } { h.flags with } ⟨hb, ho, hn⟩
    · exact inv_errorComplete h.words h.flags _

/-! ### The invariant: key generation -/

theorem inv_keyFinish {s : State} (hw : WordsFit s) (hf : FlagsAgree s) (hp : 2 ≤ s.key.p) (hq : 2 ≤ s.key.q)
    (hn : s.key.p * s.key.q < 2 ^ Config.W) : nextMeets Inv (keyFinish s) := by
  have hphi : (s.key.p - 1) * (s.key.q - 1) < 2 ^ Config.W :=
    (Nat.mul_le_mul (Nat.sub_le _ _) (Nat.sub_le _ _)).trans_lt hn
  have hpos : 0 < (s.key.p - 1) * (s.key.q - 1) := Nat.mul_pos (by omega) (by omega)
  have hev : s.opa % ((s.key.p - 1) * (s.key.q - 1)) < 2 ^ Config.W := (Nat.mod_lt _ hpos).trans hphi
  obtain ⟨k, v, hk, rfl, h⟩ := keyFinish_cases s hp hq
  have hkey : WordsFit { s with key := k } := by rw [hk]; exact { hw with phi := hphi, ev := hev }
  have hfits := wordsFit_euclid hkey hev hphi
  obtain ⟨-, d, e, hd, -⟩ | ⟨-, e⟩ := h <;> rw [e]
  · exact inv_complete hfits { hf with } hn (hd.trans hphi) false
  · exact inv_errorComplete hfits { hf with } _

theorem inv_keygenGo {s : State} {c : Nat} {x : State × TestProgress} {k : KeySlot} (h : Tested s c x)
    (hf : FlagsAgree s) (hb : s.busy = true) (ho : s.opc = 6#32) (hn : keySizeOk s.sizeNat = true)
    (hk : firstPrimeDone k s) (hc : exactBits s.primeWidth c) : nextMeets Inv (keygenGo k x) := by
  obtain ⟨t, p⟩ := x
  obtain ⟨⟨e, v, u, rfl⟩, hw, rfl, hwait, hacc⟩ := h
  match p, k with
  | .needsWitness, k => exact inv_waits hw { hf with } ⟨hb, ho, hn, hk, hwait rfl, hc⟩
  | .verdict false, k => exact inv_waits hw { hf with } ⟨hb, ho, hn, hk⟩
  | .verdict true, .p =>
    exact inv_waits (s := genBegin { withScratch e v u s.key s with key := _ }) { hw with p := hw.cand }
      { hf with } ⟨hb, ho, hn, hacc rfl, hc⟩
  | .verdict true, .q =>
    obtain ⟨hp2, hp⟩ := hk
    have hW : s.sizeNat ≤ Config.W := ((keySizeOk_iff _).mp hn).2.2
    exact inv_keyFinish { hw with q := hw.cand } { hf with } hp2 (hacc rfl) (exactBits_mul_lt_width hW hp hc)

theorem inv_execKeygen {s : State} (h : Inv s) (hb : s.busy = true) (ho : s.opc = 6#32) :
    nextMeets Inv (exec .keygen s) := by
  by_cases hp : ∃ k, s.phase = .keyCandidate k
  · obtain ⟨k, hp⟩ := hp
    obtain ⟨-, -, hn, hk⟩ : s.busy = true ∧ s.opc = 6#32 ∧ keySizeOk s.sizeNat = true ∧
        firstPrimeDone k s := by
      simpa [phaseOk, hp] using h.phase
    rw [exec_keygen_keyCandidate hp]
    refine draw_nextMeets h fun c r h1 h2 => ?_
    have hc : exactBits s.primeWidth c := exactBits_of_candidateRange h1 h2
    have hcw := exactBits_lt_width ((Nat.div_le_self _ _).trans ((keySizeOk_iff _).mp hn).2.2) hc
    exact inv_keygenGo (genCandidateDrawn_tested { h.words with } hcw) { h.flags with } hb ho hn hk hc
  by_cases hp' : ∃ k, s.phase = .keyWitness k
  · obtain ⟨k, hp'⟩ := hp'
    obtain ⟨-, -, hn, hk, ht, hc⟩ : s.busy = true ∧ s.opc = 6#32 ∧ keySizeOk s.sizeNat = true ∧
        firstPrimeDone k s ∧ testing s ∧ exactBits s.primeWidth s.tst.cand := by
      simpa [phaseOk, hp'] using h.phase
    rw [exec_keygen_keyWitness hp', ← witnessRange_eq]
    refine draw_nextMeets h fun a r _ ha => ?_
    have hr : Inv { s with rand := r } := inv_changeOutside h
    exact inv_keygenGo (testTrial_tested hr.words ht ha) hr.flags hb ho hn hk hc
  · rw [exec_keygen_entry (not_exists.mp hp) (not_exists.mp hp')]
    split
    · next hn => exact inv_waits { h.words with } { h.flags with } ⟨hb, ho, hn, trivial⟩
    · exact inv_errorComplete h.words h.flags _

/-! ### The invariant: every step -/

theorem inv_exec {s : State} {i : Instr} (h : Inv s) (hb : s.busy = true) (ho : s.opc = encode i) :
    nextMeets Inv (exec i s) := by
  cases i with
  | modmul => exact inv_execModmul h
  | modexp => exact inv_powCommand h
  | modinv => exact inv_execModinv h
  | primetest => exact inv_execPrimetest h hb ho
  | primegen => exact inv_execPrimegen h hb ho
  | keygen => exact inv_execKeygen h hb ho
  | transform => exact inv_powCommand h

theorem inv_sequencerStep {s : State} (h : Inv s) (hb : s.busy = true) : nextMeets Inv (sequencerStep s) := by
  unfold sequencerStep
  split
  · next i hd => exact inv_exec h hb (eq_encode_of_decode hd)
  · exact inv_errorComplete h.words h.flags _

theorem inv_step {s : State} (h : Inv s) : nextMeets Inv (step s) := by
  unfold step
  obtain ⟨a, rest, -, e⟩ | ⟨hb, es, -, e⟩ | ⟨-, es, -, e⟩ := nextMover_cases s <;> rw [e]
  · exact inv_hostAct (inv_changeOutside h) a
  · exact inv_sequencerStep (inv_changeOutside h) hb
  · exact inv_changeOutside h

/-- Settles O13: each clause is a field of the literal state after reset (10_state.md R43). -/
theorem resetStateHoldsSpecValues : Obligations.ResetStateHoldsSpecValues := by
  unfold Obligations.ResetStateHoldsSpecValues
  decide

/-- Settles O46: every word is 0, no flag and no code is set, and the phase is the entry. -/
theorem resetMeetsInvariant : Obligations.ResetMeetsInvariant :=
  inv_reset

/-- Settles O47: whoever moves, the host, the sequencer or nobody, keeps the invariant. -/
theorem everyStepKeepsInvariant : Obligations.EveryStepKeepsInvariant :=
  fun _ t h hs => nextMeets_iff.mp (inv_step h) t hs

/-! ### No command changes an input register -/

/-- The inputs, OPC and everything of the host's are as in `s`. -/
def keepsInputs (s t : State) : Prop :=
  sameInputs s t ∧ sameHost s t

theorem keepsInputs_refl (s : State) : keepsInputs s s :=
  ⟨⟨rfl, rfl, rfl, rfl, rfl, rfl, rfl⟩, rfl, rfl, rfl⟩

theorem keepsInputs_testBegin {s t : State} (h : keepsInputs s t) (c : Nat) : keepsInputs s (testBegin c t).1 := by
  obtain ⟨e, v, u, hx⟩ := testBegin_frame c t
  rw [hx]
  exact h

theorem keepsInputs_testTrial {s t : State} (h : keepsInputs s t) (a : Nat) : keepsInputs s (testTrial a t).1 := by
  obtain ⟨e, v, u, hx⟩ := testTrial_frame a t
  rw [hx]
  exact h

theorem keepsInputs_genCandidateDrawn {s t : State} (h : keepsInputs s t) (c : Nat) :
    keepsInputs s (genCandidateDrawn c t).1 :=
  keepsInputs_testBegin (t := { t with tries := bumpTries t.tries }) h c

theorem keepsInputs_primetestGo {s : State} {x : State × TestProgress} (h : keepsInputs s x.1) :
    nextMeets (keepsInputs s) (primetestGo x) := by
  unfold primetestGo
  split <;> exact h

theorem keepsInputs_primegenGo {s : State} {x : State × TestProgress} (h : keepsInputs s x.1) :
    nextMeets (keepsInputs s) (primegenGo x) := by
  unfold primegenGo
  split <;> exact h

theorem keepsInputs_keyFinish {s t : State} (h : keepsInputs s t) : nextMeets (keepsInputs s) (keyFinish t) := by
  unfold keyFinish
  simp only []
  split <;> exact h

theorem keepsInputs_keygenGo {s : State} {x : State × TestProgress} (h : keepsInputs s x.1) (k : KeySlot) :
    nextMeets (keepsInputs s) (keygenGo k x) := by
  unfold keygenGo
  split
  · exact h
  · exact h
  · cases k with
    | p => exact h
    | q => exact keepsInputs_keyFinish h

theorem keepsInputs_execModmul (s : State) : nextMeets (keepsInputs s) (execModmul s) := by
  unfold execModmul
  split <;> exact keepsInputs_refl s

theorem keepsInputs_powCommand (s : State) : nextMeets (keepsInputs s) (powCommand s) := by
  unfold powCommand
  split <;> exact keepsInputs_refl s

theorem keepsInputs_execModinv (s : State) : nextMeets (keepsInputs s) (execModinv s) := by
  unfold execModinv
  split
  · exact keepsInputs_refl s
  · simp only []
    split <;> exact keepsInputs_refl s

theorem keepsInputs_execPrimetest (s : State) : nextMeets (keepsInputs s) (execPrimetest s) := by
  have h := keepsInputs_refl s
  unfold execPrimetest
  split
  · exact draw_nextMeets h fun a r _ _ =>
      keepsInputs_primetestGo (keepsInputs_testTrial (t := { s with rand := r }) h a)
  all_goals exact keepsInputs_primetestGo (keepsInputs_testBegin h _)

theorem keepsInputs_execPrimegen (s : State) : nextMeets (keepsInputs s) (execPrimegen s) := by
  have h := keepsInputs_refl s
  unfold execPrimegen
  split
  · exact draw_nextMeets h fun c r _ _ =>
      keepsInputs_primegenGo (keepsInputs_genCandidateDrawn (t := { s with rand := r }) h c)
  · exact draw_nextMeets h fun a r _ _ =>
      keepsInputs_primegenGo (keepsInputs_testTrial (t := { s with rand := r }) h a)
  all_goals split <;> exact h

theorem keepsInputs_execKeygen (s : State) : nextMeets (keepsInputs s) (execKeygen s) := by
  have h := keepsInputs_refl s
  unfold execKeygen
  split
  · exact draw_nextMeets h fun c r _ _ =>
      keepsInputs_keygenGo (keepsInputs_genCandidateDrawn (t := { s with rand := r }) h c) _
  · exact draw_nextMeets h fun a r _ _ =>
      keepsInputs_keygenGo (keepsInputs_testTrial (t := { s with rand := r }) h a) _
  all_goals split <;> exact h

theorem keepsInputs_exec (i : Instr) (s : State) : nextMeets (keepsInputs s) (exec i s) := by
  cases i with
  | modmul => exact keepsInputs_execModmul s
  | modexp => exact keepsInputs_powCommand s
  | modinv => exact keepsInputs_execModinv s
  | primetest => exact keepsInputs_execPrimetest s
  | primegen => exact keepsInputs_execPrimegen s
  | keygen => exact keepsInputs_execKeygen s
  | transform => exact keepsInputs_powCommand s

/-- Settles O48: no shared operation and no unit writes an input register, OPC or the host's part of the state. -/
theorem commandsKeepInputs : Obligations.CommandsKeepInputs :=
  fun i s t h => nextMeets_iff.mp (keepsInputs_exec i s) t h

/-! ### Two states that the host cannot tell apart -/

/-- The two states agree but for working registers. -/
def sameSeen (s t : State) : Prop :=
  ∃ e v u k, t = withScratch e v u k s

/-- What does not depend on the working registers is the same of both. -/
theorem eq_of_sameSeen {α : Type} {f : State → α} (hf : ∀ e v u k s, f (withScratch e v u k s) = f s) {s t : State}
    (h : sameSeen s t) : f t = f s := by
  obtain ⟨e, v, u, k, rfl⟩ := h
  exact hf e v u k s

/-- The phases in which CAND and TRIAL are still to be used. -/
def awaitsWitness : Phase → Bool
  | .testWitness | .genWitness | .keyWitness _ => true
  | .entry | .genCandidate | .keyCandidate _ => false

/-- The phases in which P is still to be used. -/
def seeksSecondPrime : Phase → Bool
  | .keyCandidate .q | .keyWitness .q => true
  | .entry | .testWitness | .genCandidate | .genWitness | .keyCandidate .p | .keyWitness .p => false

/-- The two states agree on everything that is not a working register, and on the working registers that the phase
has still to use. This is what every step keeps (10_state.md R34). -/
structure Alike (s t : State) : Prop where
  seen : sameSeen s t
  tester : awaitsWitness s.phase = true → t.tst.cand = s.tst.cand ∧ t.tst.trial = s.tst.trial
  prime : seeksSecondPrime s.phase = true → t.key.p = s.key.p

/-- Both outcomes are next states that are alike, or they are one fault or one refusal. -/
inductive AlikeOutcome : Result → Result → Prop where
  | next {s t : State} (h : Alike s t) : AlikeOutcome (.next s) (.next t)
  | fault (r : Fault) : AlikeOutcome (.fault r) (.fault r)
  | refused (r : Refusal) : AlikeOutcome (.refused r) (.refused r)

/-- KEYGEN has P still to use exactly while it seeks Q (46_keypair_generator.md R217). -/
theorem seeksSecondPrime_iff (k : KeySlot) :
    (seeksSecondPrime (.keyCandidate k) = true ↔ k = .q) ∧ (seeksSecondPrime (.keyWitness k) = true ↔ k = .q) := by
  cases k <;> decide

theorem AlikeOutcome.eraseScratch {x y : Result} (h : AlikeOutcome x y) :
    mapNext eraseScratch y = mapNext eraseScratch x := by
  cases h with
  | next h => exact congrArg Host.Outcome.next (eq_of_sameSeen (fun _ _ _ _ _ => rfl) h.seen)
  | fault r => rfl
  | refused r => rfl

theorem alike_refl (s : State) : Alike s s :=
  ⟨⟨s.exp, s.inv, s.tst, s.key, rfl⟩, fun _ => ⟨rfl, rfl⟩, fun _ => rfl⟩

/-- At the entry of a command no working register is to be used. -/
theorem alike_of_entry {s t : State} (h : sameSeen s t) (hp : s.phase = .entry) : Alike s t :=
  ⟨h, by simp [hp, awaitsWitness], by simp [hp, seeksSecondPrime]⟩

/-- A change outside the working registers, made in both states, keeps them alike if the phase stays or is the
entry afterwards. -/
theorem alike_of_frame {s s' : State} {e : ExpRegs} {v : InvRegs} {u : TesterRegs} {k : KeyRegs}
    (h : Alike s (withScratch e v u k s)) (hp : s'.phase = s.phase ∨ s'.phase = .entry) (hu : s'.tst = s.tst)
    (hk : s'.key = s.key) : Alike s' (withScratch e v u k s') := by
  have hseen : sameSeen s' (withScratch e v u k s') := ⟨e, v, u, k, rfl⟩
  obtain hp | hp := hp
  · exact ⟨hseen, by rw [hp, hu]; exact h.tester, by rw [hp, hk]; exact h.prime⟩
  · exact alike_of_entry hseen hp

theorem sameSeen_withRand {s t : State} (h : sameSeen s t) (r : RandomSource) :
    sameSeen { s with rand := r } { t with rand := r } := by
  obtain ⟨e, v, u, k, rfl⟩ := h
  exact ⟨e, v, u, k, rfl⟩

theorem alike_complete {s t : State} (h : sameSeen s t) (r0 r1 : Nat) (f : Bool) :
    AlikeOutcome (.next (complete r0 r1 f s)) (.next (complete r0 r1 f t)) := by
  obtain ⟨e, v, u, k, rfl⟩ := h
  exact .next (alike_of_entry ⟨e, v, u, k, rfl⟩ rfl)

theorem alike_errorComplete {s t : State} (h : sameSeen s t) (x : ErrorKind) :
    AlikeOutcome (.next (errorComplete x s)) (.next (errorComplete x t)) := by
  obtain ⟨e, v, u, k, rfl⟩ := h
  exact .next (alike_of_entry ⟨e, v, u, k, rfl⟩ rfl)

/-- A draw treats states that are alike alike, if what follows it does. -/
theorem alike_draw {range : Nat × Nat} {f : Nat → State → Result} {s t : State} (h : Alike s t)
    (hf : ∀ a r, AlikeOutcome (f a { s with rand := r }) (f a { t with rand := r })) :
    AlikeOutcome (draw range f s) (draw range f t) := by
  have hr : t.rand = s.rand := eq_of_sameSeen withScratch_rand h.seen
  unfold draw
  rw [hr]
  split
  · exact .next h
  · split
    · exact hf _ _
    · exact .fault _

/-! ### The commands that do not draw -/

/-- Two branchings on the same condition are related when their branches are. -/
theorem ite_related {α : Type} {R : α → α → Prop} {p q : Prop} [Decidable p] [Decidable q] {x x' y y' : α}
    (hpq : p ↔ q) (hx : R x y) (hx' : R x' y') : R (if p then x else x') (if q then y else y') := by
  by_cases hp : p
  · rwa [if_pos hp, if_pos (hpq.mp hp)]
  · rwa [if_neg hp, if_neg (mt hpq.mpr hp)]

theorem alike_execModmul {s t : State} (h : sameSeen s t) : AlikeOutcome (execModmul s) (execModmul t) := by
  have hs := h
  obtain ⟨e, v, u, k, rfl⟩ := h
  exact ite_related Iff.rfl (alike_errorComplete hs _) (alike_complete hs _ _ _)

/-- The engine's result does not depend on what its registers held. -/
theorem modPow_fst_eq (r r' : ExpRegs) (b e m : Nat) : (modPow r b e m).1 = (modPow r' b e m).1 := by
  unfold modPow
  split <;> rfl

theorem alike_powCommand {s t : State} (h : sameSeen s t) : AlikeOutcome (powCommand s) (powCommand t) := by
  have hs := h
  obtain ⟨e, v, u, k, rfl⟩ := h
  refine ite_related Iff.rfl (alike_errorComplete hs _) ?_
  simp only [withScratch_opa, withScratch_opb, withScratch_opm, withScratch_exp, modPow_fst_eq e s.exp]
  exact alike_complete ⟨_, v, u, k, rfl⟩ _ _ _

theorem alike_execModinv {s t : State} (h : sameSeen s t) : AlikeOutcome (execModinv s) (execModinv t) := by
  have hs := h
  obtain ⟨e, v, u, k, rfl⟩ := h
  refine ite_related Iff.rfl (alike_errorComplete hs _) ?_
  simp only [withScratch_opa, withScratch_opm]
  cases (modInverse s.opa s.opm).1 with
  | some d => exact alike_complete ⟨e, _, u, k, rfl⟩ _ _ _
  | none => exact alike_errorComplete ⟨e, _, u, k, rfl⟩ _

/-! ### The tester -/

/-- Two invocations of the tester stand at the same point, with the same candidate, and with the same count of trials
if another one follows. -/
structure AlikeTests (x y : State × TestProgress) : Prop where
  progress : y.2 = x.2
  seen : sameSeen x.1 y.1
  cand : y.1.tst.cand = x.1.tst.cand
  trial : x.2 = .needsWitness → y.1.tst.trial = x.1.tst.trial

theorem alike_testBegin {s t : State} (h : sameSeen s t) (c : Nat) : AlikeTests (testBegin c s) (testBegin c t) := by
  obtain ⟨e, v, u, k, rfl⟩ := h
  refine ite_related Iff.rfl ?_ (ite_related Iff.rfl ?_ ?_)
  · exact ⟨rfl, ⟨e, v, _, k, rfl⟩, rfl, nofun⟩
  · exact ⟨rfl, ⟨e, v, _, k, rfl⟩, rfl, nofun⟩
  · exact ⟨rfl, ⟨e, v, _, k, rfl⟩, rfl, fun _ => rfl⟩

theorem alike_testTrial {s t : State} (h : sameSeen s t)
    (hu : t.tst.cand = s.tst.cand ∧ t.tst.trial = s.tst.trial) (a : Nat) :
    AlikeTests (testTrial a s) (testTrial a t) := by
  obtain ⟨e, v, ⟨cand, wit, trial⟩, k, rfl⟩ := h
  obtain ⟨rfl, rfl⟩ := hu
  have hm := modPow_fst_eq s.exp e a (s.tst.cand - 1) s.tst.cand
  refine ite_related Iff.rfl ?_ (ite_related (not_congr (hm ▸ Iff.rfl)) ?_ ?_)
  · exact ⟨rfl, ⟨e, _, _, k, rfl⟩, rfl, nofun⟩
  · exact ⟨rfl, ⟨_, _, _, k, rfl⟩, rfl, nofun⟩
  · exact ⟨rfl, ⟨_, _, _, k, rfl⟩, rfl, fun _ => rfl⟩

/-- States that the host cannot tell apart, put into the same phase, are alike if what that phase has still to use
agrees. -/
theorem alike_withPhase {s t : State} {p : Phase} (h : sameSeen s t)
    (hu : awaitsWitness p = true → t.tst.cand = s.tst.cand ∧ t.tst.trial = s.tst.trial)
    (hk : seeksSecondPrime p = true → t.key.p = s.key.p) :
    AlikeOutcome (.next { s with phase := p }) (.next { t with phase := p }) := by
  obtain ⟨e, v, u, k, rfl⟩ := h
  exact .next ⟨⟨e, v, u, k, rfl⟩, hu, hk⟩

theorem alike_primetestGo {x y : State × TestProgress} (h : AlikeTests x y) :
    AlikeOutcome (primetestGo x) (primetestGo y) := by
  obtain ⟨s, _⟩ := x
  obtain ⟨t, p⟩ := y
  obtain ⟨rfl, hs, hc, ht⟩ := h
  cases p with
  | needsWitness => exact alike_withPhase hs (fun _ => ⟨hc, ht rfl⟩) nofun
  | verdict b => exact alike_complete hs 0 0 b

/-- The draw of a witness is the same request in both states. -/
theorem alike_witnessDraw {f : Nat → State → Result} {s t : State} (h : Alike s t)
    (hw : awaitsWitness s.phase = true)
    (hf : ∀ a r, AlikeOutcome (f a { s with rand := r }) (f a { t with rand := r })) :
    AlikeOutcome (draw (witnessLo s, witnessHi s) f s) (draw (witnessLo t, witnessHi t) f t) := by
  have hl : t.loose = s.loose := eq_of_sameSeen withScratch_loose h.seen
  rw [← witnessRange_eq, ← witnessRange_eq, hl, (h.tester hw).1]
  exact alike_draw h hf

theorem alike_execPrimetest {s t : State} (h : Alike s t) :
    AlikeOutcome (exec .primetest s) (exec .primetest t) := by
  have hpt : t.phase = s.phase := eq_of_sameSeen withScratch_phase h.seen
  by_cases hp : s.phase = .testWitness
  · have hw : awaitsWitness s.phase = true := by rw [hp]; rfl
    rw [exec_primetest_testWitness hp, exec_primetest_testWitness (hpt.trans hp)]
    exact alike_witnessDraw h hw fun a r =>
      alike_primetestGo (alike_testTrial (sameSeen_withRand h.seen r) (h.tester hw) a)
  · have ho : t.opa = s.opa := eq_of_sameSeen withScratch_opa h.seen
    rw [exec_primetest_entry hp, exec_primetest_entry (hpt ▸ hp), ho]
    exact alike_primetestGo (alike_testBegin h.seen s.opa)

/-! ### Prime generation and key generation -/

theorem sameSeen_withTries {s t : State} (h : sameSeen s t) (f : CtlWord → CtlWord) :
    sameSeen { s with tries := f s.tries } { t with tries := f t.tries } := by
  obtain ⟨e, v, u, k, rfl⟩ := h
  exact ⟨e, v, u, k, rfl⟩

theorem alike_genCandidateDrawn {s t : State} (h : sameSeen s t) (c : Nat) :
    AlikeTests (genCandidateDrawn c s) (genCandidateDrawn c t) :=
  alike_testBegin (sameSeen_withTries h bumpTries) c

theorem alike_primegenGo {x y : State × TestProgress} (h : AlikeTests x y) :
    AlikeOutcome (primegenGo x) (primegenGo y) := by
  obtain ⟨s, _⟩ := x
  obtain ⟨t, p⟩ := y
  obtain ⟨rfl, hs, hc, ht⟩ := h
  match p with
  | .needsWitness => exact alike_withPhase hs (fun _ => ⟨hc, ht rfl⟩) nofun
  | .verdict false => exact alike_withPhase hs nofun nofun
  | .verdict true =>
    have hcc : t.tst.cand = s.tst.cand := hc
    simpa only [primegenGo, hcc] using alike_complete hs s.tst.cand 0 false

theorem alike_execPrimegen {s t : State} (h : Alike s t) :
    AlikeOutcome (exec .primegen s) (exec .primegen t) := by
  have hpt : t.phase = s.phase := eq_of_sameSeen withScratch_phase h.seen
  have hn : t.sizeNat = s.sizeNat := eq_of_sameSeen withScratch_sizeNat h.seen
  by_cases hp : s.phase = .genCandidate
  · rw [exec_primegen_genCandidate hp, exec_primegen_genCandidate (hpt.trans hp), hn]
    exact alike_draw h fun c r => alike_primegenGo (alike_genCandidateDrawn (sameSeen_withRand h.seen r) c)
  by_cases hp' : s.phase = .genWitness
  · have hw : awaitsWitness s.phase = true := by rw [hp']; rfl
    rw [exec_primegen_genWitness hp', exec_primegen_genWitness (hpt.trans hp')]
    exact alike_witnessDraw h hw fun a r =>
      alike_primegenGo (alike_testTrial (sameSeen_withRand h.seen r) (h.tester hw) a)
  · rw [exec_primegen_entry hp hp', exec_primegen_entry (hpt ▸ hp) (hpt ▸ hp'), hn]
    split
    · exact alike_withPhase (sameSeen_withTries h.seen fun _ => 0#32) nofun nofun
    · exact alike_errorComplete h.seen _

theorem alike_keyFinish {s t : State} (h : sameSeen s t) (hp : t.key.p = s.key.p) (hq : t.key.q = s.key.q) :
    AlikeOutcome (keyFinish s) (keyFinish t) := by
  obtain ⟨e, v, u, ⟨p, q, phi, ev⟩, rfl⟩ := h
  obtain rfl : p = s.key.p := hp
  obtain rfl : q = s.key.q := hq
  unfold keyFinish
  simp only [withScratch_key, withScratch_opa]
  cases (modInverse (s.opa % ((s.key.p - 1) * (s.key.q - 1))) ((s.key.p - 1) * (s.key.q - 1))).1 with
  | some d => exact alike_complete ⟨e, _, u, _, rfl⟩ _ _ _
  | none => exact alike_errorComplete ⟨e, _, u, _, rfl⟩ _

theorem alike_keyPrimeFound {s t : State} {k : KeySlot} (h : sameSeen s t) (hc : t.tst.cand = s.tst.cand)
    (hp : k = .q → t.key.p = s.key.p) : AlikeOutcome (keyPrimeFound k s) (keyPrimeFound k t) := by
  have hs (κ κ' : KeyRegs) : sameSeen { s with key := κ } { t with key := κ' } := by
    obtain ⟨e, v, u, k, rfl⟩ := h
    exact ⟨e, v, u, κ', rfl⟩
  cases k with
  | p => exact alike_withPhase (sameSeen_withTries (hs _ _) fun _ => 0#32) nofun fun _ => hc
  | q => exact alike_keyFinish (hs _ _) (hp rfl) hc

theorem alike_keygenGo {x y : State × TestProgress} {k : KeySlot} (h : AlikeTests x y)
    (hp : k = .q → y.1.key.p = x.1.key.p) : AlikeOutcome (keygenGo k x) (keygenGo k y) := by
  obtain ⟨s, _⟩ := x
  obtain ⟨t, p⟩ := y
  obtain ⟨rfl, hs, hc, ht⟩ := h
  match p with
  | .needsWitness => exact alike_withPhase hs (fun _ => ⟨hc, ht rfl⟩) (hp ∘ (seeksSecondPrime_iff k).2.mp)
  | .verdict false => exact alike_withPhase hs nofun (hp ∘ (seeksSecondPrime_iff k).1.mp)
  | .verdict true => exact alike_keyPrimeFound hs hc hp

theorem alike_execKeygen {s t : State} (h : Alike s t) : AlikeOutcome (exec .keygen s) (exec .keygen t) := by
  have hpt : t.phase = s.phase := eq_of_sameSeen withScratch_phase h.seen
  have hn : t.sizeNat = s.sizeNat := eq_of_sameSeen withScratch_sizeNat h.seen
  have hn' : t.primeWidth = s.primeWidth := congrArg (· / 2) hn
  by_cases hp : ∃ k, s.phase = .keyCandidate k
  · obtain ⟨k, hp⟩ := hp
    have hprime (hk : k = .q) : t.key.p = s.key.p := h.prime (hp ▸ (seeksSecondPrime_iff k).1.mpr hk)
    rw [exec_keygen_keyCandidate hp, exec_keygen_keyCandidate (hpt.trans hp), hn']
    refine alike_draw h fun c r => alike_keygenGo (alike_genCandidateDrawn (sameSeen_withRand h.seen r) c) ?_
    simpa only [genCandidateDrawn, testBegin_key] using hprime
  by_cases hp' : ∃ k, s.phase = .keyWitness k
  · obtain ⟨k, hp'⟩ := hp'
    have hw : awaitsWitness s.phase = true := by rw [hp']; rfl
    have hprime (hk : k = .q) : t.key.p = s.key.p := h.prime (hp' ▸ (seeksSecondPrime_iff k).2.mpr hk)
    rw [exec_keygen_keyWitness hp', exec_keygen_keyWitness (hpt.trans hp')]
    refine alike_witnessDraw h hw fun a r =>
      alike_keygenGo (alike_testTrial (sameSeen_withRand h.seen r) (h.tester hw) a) ?_
    simpa only [testTrial_key] using hprime
  · rw [exec_keygen_entry (not_exists.mp hp) (not_exists.mp hp'),
      exec_keygen_entry (hpt ▸ not_exists.mp hp) (hpt ▸ not_exists.mp hp'), hn]
    split
    · exact alike_withPhase (sameSeen_withTries h.seen fun _ => 0#32) nofun nofun
    · exact alike_errorComplete h.seen _

/-! ### The host -/

theorem hostWrite_withScratch (idx : RegIndex) (d : Nat) (e : ExpRegs) (v : InvRegs) (u : TesterRegs) (k : KeyRegs)
    (s : State) : hostWrite idx d (withScratch e v u k s) = withScratch e v u k (hostWrite idx d s) := by
  unfold hostWrite
  rw [withScratch_busy]
  split
  · rfl
  · split <;> rfl

/-- A host write changes no working register, and leaves the phase or begins a command. -/
theorem hostWrite_frame (idx : RegIndex) (d : Nat) (s : State) :
    ((hostWrite idx d s).phase = s.phase ∨ (hostWrite idx d s).phase = .entry) ∧
      (hostWrite idx d s).tst = s.tst ∧ (hostWrite idx d s).key = s.key := by
  obtain e | ⟨-, e | e | e | e | e | e | ⟨-, e⟩⟩ := hostWrite_cases idx d s <;> simp [e]

theorem readRegister_withScratch (r : Option RegName) (e : ExpRegs) (v : InvRegs) (u : TesterRegs) (k : KeyRegs)
    (s : State) : readRegister r (withScratch e v u k s) = readRegister r s := by
  unfold readRegister
  split <;> rfl

theorem hostRead_withScratch (idx : RegIndex) (e : ExpRegs) (v : InvRegs) (u : TesterRegs) (k : KeyRegs) (s : State) :
    hostRead idx (withScratch e v u k s) = withScratch e v u k (hostRead idx s) := by
  unfold hostRead
  rw [withScratch_busy, readRegister_withScratch]
  split <;> rfl

/-- A host read changes neither the phase nor a working register. -/
theorem hostRead_frame (idx : RegIndex) (s : State) :
    (hostRead idx s).phase = s.phase ∧ (hostRead idx s).tst = s.tst ∧ (hostRead idx s).key = s.key := by
  obtain e | e := hostRead_cases idx s <;> simp [e]

theorem drawRequest_alike {s t : State} (h : Alike s t) : drawRequest t = drawRequest s := by
  obtain ⟨⟨e, v, u, k, rfl⟩, hu, -⟩ := h
  refine ite_related Iff.rfl ?_ rfl
  simp only [withScratch_phase, withScratch_loose, withScratch_tst, withScratch_sizeNat, withScratch_primeWidth]
  cases hp : s.phase <;> simp_all [awaitsWitness]

/-- Reset leaves nothing of the working registers. -/
theorem resetBlock_alike {s t : State} (h : Alike s t) : resetBlock t = resetBlock s := by
  have hd := drawRequest_alike h
  obtain ⟨e, v, u, k, rfl⟩ := h.seen
  unfold resetBlock
  rw [hd]
  split <;> rfl

theorem alike_hostAct {s t : State} (h : Alike s t) (a : HostAction) : AlikeOutcome (hostAct a s) (hostAct a t) := by
  cases a with
  | write idx d =>
    refine ite_related Iff.rfl (.next ?_) (.refused _)
    obtain ⟨e, v, u, k, rfl⟩ := h.seen
    obtain ⟨hp, hu, hk⟩ := hostWrite_frame idx d s
    exact hostWrite_withScratch idx d e v u k s ▸ alike_of_frame h hp hu hk
  | read idx =>
    refine .next ?_
    obtain ⟨e, v, u, k, rfl⟩ := h.seen
    obtain ⟨hp, hu, hk⟩ := hostRead_frame idx s
    exact hostRead_withScratch idx e v u k s ▸ alike_of_frame h (.inl hp) hu hk
  | reset => exact .next (resetBlock_alike h ▸ alike_refl _)

/-! ### Every step and every run -/

theorem alike_exec {s t : State} (h : Alike s t) (i : Instr) : AlikeOutcome (exec i s) (exec i t) := by
  cases i with
  | modmul => exact alike_execModmul h.seen
  | modexp => exact alike_powCommand h.seen
  | modinv => exact alike_execModinv h.seen
  | primetest => exact alike_execPrimetest h
  | primegen => exact alike_execPrimegen h
  | keygen => exact alike_execKeygen h
  | transform => exact alike_powCommand h.seen

theorem alike_sequencerStep {s t : State} (h : Alike s t) : AlikeOutcome (sequencerStep s) (sequencerStep t) := by
  have ho : t.opc = s.opc := eq_of_sameSeen withScratch_opc h.seen
  unfold sequencerStep
  rw [ho]
  split
  · exact alike_exec h _
  · exact alike_errorComplete h.seen _

/-- Who moves does not depend on the working registers, and only the host's script may be shorter then. -/
theorem nextMover_withScratch (e : ExpRegs) (v : InvRegs) (u : TesterRegs) (k : KeyRegs) (s : State) :
    ∃ es : List HostEvent,
      let s' := { s with host := es }
      (∃ a, nextMover s = .host a s' ∧ nextMover (withScratch e v u k s) = .host a (withScratch e v u k s')) ∨
        (nextMover s = .sequencer s' ∧
          nextMover (withScratch e v u k s) = .sequencer (withScratch e v u k s')) ∨
        (nextMover s = .nobody s' ∧ nextMover (withScratch e v u k s) = .nobody (withScratch e v u k s')) := by
  unfold nextMover
  rw [withScratch_host, withScratch_busy]
  match s.host, s.busy with
  | .act a :: rest, _ => exact ⟨rest, .inl ⟨a, rfl, rfl⟩⟩
  | .wait :: _, true => exact ⟨s.host, .inr (.inl ⟨rfl, rfl⟩)⟩
  | .wait :: rest, false => exact ⟨rest, .inr (.inr ⟨rfl, rfl⟩)⟩
  | .pause :: rest, true => exact ⟨rest, .inr (.inl ⟨rfl, rfl⟩)⟩
  | .pause :: rest, false => exact ⟨rest, .inr (.inr ⟨rfl, rfl⟩)⟩
  | [], true => exact ⟨s.host, .inr (.inl ⟨rfl, rfl⟩)⟩
  | [], false => exact ⟨s.host, .inr (.inr ⟨rfl, rfl⟩)⟩

/-- Every step treats states that are alike alike. -/
theorem alike_step {s t : State} (h : Alike s t) : AlikeOutcome (step s) (step t) := by
  obtain ⟨e, v, u, k, rfl⟩ := h.seen
  obtain ⟨es, hm⟩ := nextMover_withScratch e v u k s
  have h' : Alike { s with host := es } (withScratch e v u k { s with host := es }) :=
    alike_of_frame h (.inl rfl) rfl rfl
  unfold step
  obtain ⟨a, hs, ht⟩ | ⟨hs, ht⟩ | ⟨hs, ht⟩ := hm <;> rw [hs, ht]
  · exact alike_hostAct h' a
  · exact alike_sequencerStep h'
  · exact .next h'

/-- Every run, too. -/
theorem alike_steps (n : Nat) {s t : State} (h : Alike s t) : AlikeOutcome (steps n s) (steps n t) := by
  induction n generalizing s t with
  | zero => exact .next h
  | succ n ih =>
    have hst := alike_step h
    unfold steps
    cases hs : step s <;> cases ht : step t <;> rw [hs, ht] at hst <;> cases hst
    · exact ih ‹_›
    · exact .fault _
    · exact .refused _

/-- Settles O50: states that are alike stay alike in every run, and at an entry any working registers will do. -/
theorem hiddenRegistersNeverSeen : Obligations.HiddenRegistersNeverSeen :=
  fun n _ e v u k hp => (alike_steps n (alike_of_entry ⟨e, v, u, k, rfl⟩ hp)).eraseScratch

end Sys2Proof.Machine

/-! PROOFS. The host port and the draw port: what a host access does at each register index, and when the block draws,
from which range, and what becomes of the answer. -/

namespace Sys2Proof.Machine

open Sys2Proof.Safety

/-! ### The address map -/

theorem regAt_eq_some_iff (idx : RegIndex) (r : RegName) : regAt idx = some r ↔ indexOf r = idx := by
  revert idx
  cases r <;> decide

theorem regAt_eq_none_iff (idx : RegIndex) : regAt idx = none ↔ 12 ≤ idx.toNat := by
  revert idx
  decide

theorem reserved_cases {idx : RegIndex} (h : 12 ≤ idx.toNat) : idx = 12#4 ∨ idx = 13#4 ∨ idx = 14#4 ∨ idx = 15#4 := by
  revert idx
  decide

/-- Every index is a register's or one of the four reserved ones (20_memory.md R61, R66). -/
theorem regIndex_cases (idx : RegIndex) :
    (∃ r, idx = indexOf r) ∨ idx = 12#4 ∨ idx = 13#4 ∨ idx = 14#4 ∨ idx = 15#4 := by
  cases h : regAt idx with
  | some r => exact .inl ⟨r, ((regAt_eq_some_iff idx r).mp h).symm⟩
  | none => exact .inr (reserved_cases ((regAt_eq_none_iff idx).mp h))

/-- The result registers are at the indices 3 and 4. -/
theorem isResult_regAt_iff (idx : RegIndex) : isResult (regAt idx) = true ↔ idx.toNat = 3 ∨ idx.toNat = 4 := by
  revert idx
  decide

/-- Settles O56: the map and its inverse agree on each register, and the other indices are the four reserved ones. -/
theorem indexMapFixesSixteenIndices : Obligations.IndexMapFixesSixteenIndices :=
  ⟨fun r => by cases r <;> rfl, regAt_eq_some_iff, regAt_eq_none_iff, fun idx => idx.isLt⟩

/-! ### Host accesses -/

/-- A transaction at the head of the script is performed at once, idle or busy. -/
theorem step_hostAct {s : State} {a : HostAction} {rest : List HostEvent} (h : s.host = .act a :: rest) :
    step s = hostAct a { s with host := rest } := by
  simp [step, nextMover, h]

theorem step_hostWrite {s : State} {idx : RegIndex} {v : Nat} {rest : List HostEvent}
    (h : s.host = .act (.write idx v) :: rest) (hv : v < 2 ^ Config.W) :
    step s = .next (hostWrite idx v { s with host := rest }) := by
  rw [step_hostAct h, hostAct, if_pos ((fitsW_iff v).mpr hv)]

theorem step_hostRead {s : State} {idx : RegIndex} {rest : List HostEvent} (h : s.host = .act (.read idx) :: rest) :
    step s = .next (hostRead idx { s with host := rest }) :=
  step_hostAct h

theorem hostWrite_busy {s : State} (hb : s.busy = true) (idx : RegIndex) (v : Nat) : hostWrite idx v s = s :=
  if_pos hb

theorem hostRead_busyResult {s : State} {idx : RegIndex} (hb : s.busy = true) (hi : isResult (regAt idx) = true) :
    hostRead idx s =
      { s with
        reads := { idx := idx, val := Config.busyResult s.fresh % 2 ^ Config.W } :: s.reads
        fresh := s.fresh + 1 } := by
  simp [hostRead, hb, hi]

theorem hostRead_register {s : State} {idx : RegIndex} (h : s.busy = false ∨ ¬ isResult (regAt idx) = true) :
    hostRead idx s = { s with reads := { idx := idx, val := readRegister (regAt idx) s } :: s.reads } := by
  obtain h | h := h <;> simp [hostRead, h]

theorem busyResult_lt (k : Nat) : Config.busyResult k % 2 ^ Config.W < 2 ^ Config.W :=
  Nat.mod_lt _ (Nat.two_pow_pos _)

/-- A register's value, zero-extended, fits the W-bit port (20_memory.md R65). -/
theorem readRegister_lt {s : State} (h : WordsFit s) (r : Option RegName) : readRegister r s < 2 ^ Config.W := by
  have hctl (w : CtlWord) : w.toNat < 2 ^ Config.W := w.isLt.trans_le two_pow_32_le
  match r with
  | some .opa => exact h.opa
  | some .opb => exact h.opb
  | some .opm => exact h.opm
  | some .res0 => exact h.res0
  | some .res1 => exact h.res1
  | some .size | some .rounds | some .cfg | some .status | some .errcode | some .tries => exact hctl _
  | some .cmd | none => exact Nat.two_pow_pos _

/-- Settles O10: such a datum fails the port check. -/
theorem tooWideDatumRefused : Obligations.TooWideDatumRefused := by
  intro s idx v rest hv hh
  have hn : ¬ fitsW v = true := fun hf => absurd ((fitsW_iff v).mp hf) hv.not_gt
  rw [step_hostAct hh, hostAct, if_neg hn]

/-- Settles O7: while busy nothing is written; while idle each register, and each reserved index, is one case. -/
theorem hostWriteByIndex : Obligations.HostWriteByIndex := by
  intro s idx v rest hv hh
  refine ⟨_, step_hostWrite hh hv, ?_⟩
  split
  · next hb => exact hostWrite_busy (s := { s with host := rest }) hb idx v
  · next hb =>
    rw [hostWrite, if_neg (show ¬ State.busy { s with host := rest } = true from hb)]
    obtain ⟨r, rfl⟩ | rfl | rfl | rfl | rfl := regIndex_cases idx
    · cases r
      case cmd => exact ⟨⟨rfl, rfl, rfl, rfl, rfl, rfl, rfl, rfl, rfl, rfl, rfl⟩, rfl, rfl, rfl⟩
      all_goals rfl
    all_goals rfl

/-- Settles O8: a result read while busy is a free value; of the others each register, and each reserved index, is one
case. -/
theorem hostReadByIndex : Obligations.HostReadByIndex := by
  intro s idx rest hh
  rw [step_hostRead hh, ← isResult_regAt_iff]
  refine ⟨fun hb hi => ⟨_, busyResult_lt s.fresh, congrArg _ (hostRead_busyResult hb hi)⟩, fun h => ?_⟩
  rw [hostRead_register (s := { s with host := rest }) h]
  obtain ⟨r, rfl⟩ | rfl | rfl | rfl | rfl := regIndex_cases idx
  · cases r <;> rfl
  all_goals rfl

/-- Settles O9: a free value is reduced to W bits, and a register's value fits by the invariant. -/
theorem hostReadsAreWBit : Obligations.HostReadsAreWBit := by
  intro s idx rest h hh
  have hw : WordsFit { s with host := rest } := { h.words with }
  rw [step_hostRead hh]
  obtain e | e := hostRead_cases idx { s with host := rest }
  · exact ⟨_, _, rfl, congrArg _ e, readRegister_lt hw _⟩
  · exact ⟨_, _, rfl, congrArg _ e, busyResult_lt _⟩

/-! ### Outcomes that go on, and outcomes that draw -/

/-- The outcome is a next state, and the random source is `r` in it. -/
def goesOnWith (r : RandomSource) (x : Result) : Prop :=
  ∃ t, x = .next t ∧ t.rand = r

/-- The outcome is that of one draw from `range`, and whatever the answer, the command goes on without another. -/
def drawsOnce (range : Nat × Nat) (s : State) (x : Result) : Prop :=
  ∃ k, x = draw range k s ∧ ∀ v t, goesOnWith t.rand (k v t)

/-- The random source is as in `s`, or has answered one request from there, in its range. -/
def drewAtMostOnce (s t : State) : Prop :=
  t.rand = s.rand ∨ ∃ lo hi v ws, nextAnswer s lo hi v ws ∧ t.rand = answered s lo hi v ws

theorem goesOnWith_next (t : State) : goesOnWith t.rand (.next t) :=
  ⟨t, rfl, rfl⟩

/-- A draw with an answer in range goes on, and the source has advanced by it. -/
theorem goesOnWith_of_drawsOnce {lo hi v : Nat} {ws : List Nat} {s : State} {x : Result} (h : drawsOnce (lo, hi) s x)
    (ha : nextAnswer s lo hi v ws) : goesOnWith (answered s lo hi v ws) x := by
  obtain ⟨k, rfl, hk⟩ := h
  rw [draw_nextAnswer ha]
  exact hk v { s with rand := answered s lo hi v ws }

theorem drawsOnce_waits {range : Nat × Nat} {s : State} {x : Result} (h : drawsOnce range s x)
    (ha : s.rand.answers = []) : x = .next s := by
  obtain ⟨k, rfl, -⟩ := h
  exact draw_waits ha

/-- A draw with an answer out of range stops (20_memory.md R73). -/
theorem drawsOnce_outOfContract {lo hi v : Nat} {ws : List Nat} {s : State} {x : Result}
    (h : drawsOnce (lo, hi) s x) (ha : s.rand.answers = v :: ws) (hv : ¬ (lo ≤ v ∧ v ≤ hi)) :
    x = .fault (.drawOutOfContract lo hi v) := by
  obtain ⟨k, rfl, -⟩ := h
  simp only [draw, ha, if_neg hv]

theorem drewAtMostOnce_of_goesOnWith {s : State} {x : Result} (h : goesOnWith s.rand x) :
    nextMeets (drewAtMostOnce s) x := by
  obtain ⟨t, rfl, ht⟩ := h
  exact .inl ht

theorem drewAtMostOnce_of_drawsOnce {range : Nat × Nat} {s : State} {x : Result} (h : drawsOnce range s x) :
    nextMeets (drewAtMostOnce s) x := by
  obtain ⟨k, rfl, hk⟩ := h
  obtain ⟨-, e⟩ | ⟨v, ws, ha, h1, h2, e⟩ | ⟨v, ws, -, -, e⟩ := draw_cases range k s <;> rw [e]
  · exact .inl rfl
  · obtain ⟨t, ht, hr⟩ := hk v { s with rand := answered s range.1 range.2 v ws }
    exact nextMeets_iff.mpr fun u hu => .inr ⟨_, _, v, ws, ⟨ha, h1, h2⟩, by cases hu.symm.trans ht; exact hr⟩
  · exact trivial

/-! ### The units leave the random source alone -/

@[simp] theorem testBegin_rand (c : Nat) (s : State) : (testBegin c s).1.rand = s.rand := by
  obtain ⟨e, v, u, h⟩ := testBegin_frame c s
  rw [h, withScratch_rand]

@[simp] theorem testTrial_rand (a : Nat) (s : State) : (testTrial a s).1.rand = s.rand := by
  obtain ⟨e, v, u, h⟩ := testTrial_frame a s
  rw [h, withScratch_rand]

@[simp] theorem genCandidateDrawn_rand (c : Nat) (s : State) : (genCandidateDrawn c s).1.rand = s.rand :=
  testBegin_rand c { s with tries := bumpTries s.tries }

theorem primetestGo_goesOn (x : State × TestProgress) : goesOnWith x.1.rand (primetestGo x) := by
  unfold primetestGo
  split <;> exact goesOnWith_next _

theorem primegenGo_goesOn (x : State × TestProgress) : goesOnWith x.1.rand (primegenGo x) := by
  unfold primegenGo
  split <;> exact goesOnWith_next _

theorem keyFinish_goesOn (s : State) : goesOnWith s.rand (keyFinish s) := by
  unfold keyFinish
  simp only []
  split <;> exact goesOnWith_next _

theorem keygenGo_goesOn (k : KeySlot) (x : State × TestProgress) : goesOnWith x.1.rand (keygenGo k x) := by
  unfold keygenGo
  split
  · exact goesOnWith_next _
  · exact goesOnWith_next _
  · cases k with
    | p => exact goesOnWith_next _
    | q => exact keyFinish_goesOn _

/-! ### The commands that do not draw -/

/-- The outcome is a completion, and the random source and TRIES are as in `s`. -/
def completesFrom (s : State) (x : Result) : Prop :=
  ∃ t, x = .next t ∧ t.busy = false ∧ t.done = true ∧ t.rand = s.rand ∧ t.tries = s.tries

theorem completesFrom_complete (r0 r1 : Nat) (f : Bool) (s : State) :
    completesFrom s (.next (complete r0 r1 f s)) :=
  ⟨_, rfl, complete_busy .., complete_done .., rfl, rfl⟩

theorem completesFrom_errorComplete (k : ErrorKind) (s : State) : completesFrom s (.next (errorComplete k s)) :=
  ⟨_, rfl, errorComplete_busy .., errorComplete_done .., rfl, rfl⟩

theorem execModmul_completes (s : State) : completesFrom s (execModmul s) := by
  unfold execModmul
  split
  · exact completesFrom_errorComplete _ s
  · exact completesFrom_complete _ _ _ s

theorem powCommand_completes (s : State) : completesFrom s (powCommand s) := by
  unfold powCommand
  split
  · exact completesFrom_errorComplete _ s
  · exact completesFrom_complete _ _ _ { s with exp := _ }

theorem execModinv_completes (s : State) : completesFrom s (execModinv s) := by
  unfold execModinv
  split
  · exact completesFrom_errorComplete _ s
  · simp only []
    split
    · exact completesFrom_complete _ _ _ { s with inv := _ }
    · exact completesFrom_errorComplete _ { s with inv := _ }

theorem exec_completes {i : Instr} (hi : drawing i = false) (s : State) : completesFrom s (exec i s) := by
  cases i with
  | modmul => exact execModmul_completes s
  | modexp => exact powCommand_completes s
  | modinv => exact execModinv_completes s
  | transform => exact powCommand_completes s
  | primetest => cases hi
  | primegen => cases hi
  | keygen => cases hi

/-- Settles O52: each of the four ends in a completion, with an error or without. -/
theorem drawFreeCommandsComplete : Obligations.DrawFreeCommandsComplete :=
  fun _ s hi => exec_completes hi s

/-! ### The commands that draw -/

theorem primetest_testWitness_draws {s : State} (hp : s.phase = .testWitness) :
    drawsOnce (witnessRange s.loose s.tst.cand) s (exec .primetest s) := by
  rw [exec_primetest_testWitness hp, ← witnessRange_eq]
  exact ⟨_, rfl, fun a t => testTrial_rand a t ▸ primetestGo_goesOn _⟩

theorem primegen_genCandidate_draws {s : State} (hp : s.phase = .genCandidate) :
    drawsOnce (candidateRange s.sizeNat) s (exec .primegen s) :=
  ⟨_, exec_primegen_genCandidate hp, fun c t => genCandidateDrawn_rand c t ▸ primegenGo_goesOn _⟩

theorem primegen_genWitness_draws {s : State} (hp : s.phase = .genWitness) :
    drawsOnce (witnessRange s.loose s.tst.cand) s (exec .primegen s) := by
  rw [exec_primegen_genWitness hp, ← witnessRange_eq]
  exact ⟨_, rfl, fun a t => testTrial_rand a t ▸ primegenGo_goesOn _⟩

theorem keygen_keyCandidate_draws {s : State} {k : KeySlot} (hp : s.phase = .keyCandidate k) :
    drawsOnce (candidateRange s.primeWidth) s (exec .keygen s) :=
  ⟨_, exec_keygen_keyCandidate hp, fun c t => genCandidateDrawn_rand c t ▸ keygenGo_goesOn k _⟩

theorem keygen_keyWitness_draws {s : State} {k : KeySlot} (hp : s.phase = .keyWitness k) :
    drawsOnce (witnessRange s.loose s.tst.cand) s (exec .keygen s) := by
  rw [exec_keygen_keyWitness hp, ← witnessRange_eq]
  exact ⟨_, rfl, fun a t => testTrial_rand a t ▸ keygenGo_goesOn k _⟩

theorem primetest_drewAtMostOnce (s : State) : nextMeets (drewAtMostOnce s) (exec .primetest s) := by
  by_cases hp : s.phase = .testWitness
  · exact drewAtMostOnce_of_drawsOnce (primetest_testWitness_draws hp)
  · rw [exec_primetest_entry hp]
    exact drewAtMostOnce_of_goesOnWith (testBegin_rand s.opa s ▸ primetestGo_goesOn _)

theorem primegen_drewAtMostOnce (s : State) : nextMeets (drewAtMostOnce s) (exec .primegen s) := by
  by_cases hp : s.phase = .genCandidate
  · exact drewAtMostOnce_of_drawsOnce (primegen_genCandidate_draws hp)
  by_cases hp' : s.phase = .genWitness
  · exact drewAtMostOnce_of_drawsOnce (primegen_genWitness_draws hp')
  · rw [exec_primegen_entry hp hp']
    split <;> exact .inl rfl

theorem keygen_drewAtMostOnce (s : State) : nextMeets (drewAtMostOnce s) (exec .keygen s) := by
  by_cases hp : ∃ k, s.phase = .keyCandidate k
  · obtain ⟨k, hp⟩ := hp
    exact drewAtMostOnce_of_drawsOnce (keygen_keyCandidate_draws hp)
  by_cases hp' : ∃ k, s.phase = .keyWitness k
  · obtain ⟨k, hp'⟩ := hp'
    exact drewAtMostOnce_of_drawsOnce (keygen_keyWitness_draws hp')
  · rw [exec_keygen_entry (not_exists.mp hp) (not_exists.mp hp')]
    split <;> exact .inl rfl

/-! ### Every step draws at most once -/

theorem exec_drewAtMostOnce {i : Instr} (hi : drawing i = true) (s : State) :
    nextMeets (drewAtMostOnce s) (exec i s) := by
  cases i with
  | primetest => exact primetest_drewAtMostOnce s
  | primegen => exact primegen_drewAtMostOnce s
  | keygen => exact keygen_drewAtMostOnce s
  | modmul => cases hi
  | modexp => cases hi
  | modinv => cases hi
  | transform => cases hi

theorem encode_of_drawing {i : Instr} (hi : drawing i = true) :
    encode i = 4#32 ∨ encode i = 5#32 ∨ encode i = 6#32 := by
  revert hi
  cases i <;> decide

/-- A turn of the sequencer draws at most once, and only with a drawing command in OPC (20_memory.md R72). -/
theorem sequencerStep_rand {s t : State} (h : sequencerStep s = .next t) :
    t.rand = s.rand ∨
      ((s.opc = 4#32 ∨ s.opc = 5#32 ∨ s.opc = 6#32) ∧
        ∃ lo hi v ws, nextAnswer s lo hi v ws ∧ t.rand = answered s lo hi v ws) := by
  unfold sequencerStep at h
  split at h
  · next i hd =>
    cases hi : drawing i with
    | false =>
      obtain ⟨u, e, -, -, hr, -⟩ := exec_completes hi s
      cases h.symm.trans e
      exact .inl hr
    | true =>
      rw [eq_encode_of_decode hd]
      exact (nextMeets_iff.mp (exec_drewAtMostOnce hi s) t h).imp_right fun hx => ⟨encode_of_drawing hi, hx⟩
  · cases h
    exact .inl rfl

@[simp] theorem hostWrite_rand (idx : RegIndex) (v : Nat) (s : State) : (hostWrite idx v s).rand = s.rand := by
  obtain e | ⟨-, e | e | e | e | e | e | ⟨-, e⟩⟩ := hostWrite_cases idx v s <;> simp [e]

@[simp] theorem hostRead_rand (idx : RegIndex) (s : State) : (hostRead idx s).rand = s.rand := by
  obtain e | e := hostRead_cases idx s <;> rw [e]

/-- A transaction makes no draw, and only a reset touches the random source. -/
theorem hostAct_rand {a : HostAction} {s t : State} (h : hostAct a s = .next t) :
    t.rand = s.rand ∨ (a = .reset ∧ t.rand.log = s.rand.log) := by
  cases a with
  | write idx v =>
    unfold hostAct at h
    simp only [] at h
    split at h
    · cases h
      exact .inl (hostWrite_rand idx v s)
    · cases h
  | read idx =>
    cases h
    exact .inl (hostRead_rand idx s)
  | reset =>
    cases h
    exact .inr ⟨rfl, resetBlock_log s⟩

/-- Settles O18: the host draws nothing, the sequencer draws at most once and for a drawing command only, and when
nobody moves nothing is drawn. -/
theorem drawsOnlyInDrawingCommands : Obligations.DrawsOnlyInDrawingCommands := by
  intro s t hs
  unfold step at hs
  obtain ⟨a, rest, hh, e⟩ | ⟨hb, es, -, e⟩ | ⟨-, es, -, e⟩ := nextMover_cases s <;> rw [e] at hs
  · obtain hr | ⟨rfl, hr⟩ := hostAct_rand hs
    · exact .inl hr
    · exact .inr (.inl ⟨by rw [hh]; rfl, hr⟩)
  · obtain hr | ⟨ho, hd⟩ := sequencerStep_rand hs
    · exact .inl hr
    · exact .inr (.inr ⟨hb, ho, hd⟩)
  · cases hs
    exact .inl rfl

/-! ### The request on the draw port -/

/-- A request is made only while busy, for a witness of the candidate in CAND or for a candidate of the command's
width (20_memory.md R72). -/
theorem drawRequest_eq_some {s : State} {range : Nat × Nat} (h : drawRequest s = some range) :
    s.busy = true ∧
      ((awaitsWitness s.phase = true ∧ range = witnessRange s.loose s.tst.cand) ∨
        (s.phase = .genCandidate ∧ range = candidateRange s.sizeNat) ∨
        ∃ k, s.phase = .keyCandidate k ∧ range = candidateRange s.primeWidth) := by
  unfold drawRequest at h
  split at h
  · next hb => cases hp : s.phase <;> simp_all [awaitsWitness]
  · cases h

/-- While a witness is awaited, a candidate is under test, and the command in OPC draws the witness. -/
theorem exec_awaitsWitness {s : State} (h : Inv s) (hw : awaitsWitness s.phase = true) :
    testing s ∧ ∃ i, decode s.opc = .ok i ∧ drawsOnce (witnessRange s.loose s.tst.cand) s (exec i s) := by
  have hp := h.phase
  unfold phaseOk at hp
  cases e : s.phase <;> rw [e] at hw hp
  case testWitness =>
    obtain ⟨-, ho, ht⟩ := hp
    exact ⟨ht, .primetest, by rw [ho]; rfl, primetest_testWitness_draws e⟩
  case genWitness =>
    obtain ⟨-, ho, -, ht, -⟩ := hp
    exact ⟨ht, .primegen, by rw [ho]; rfl, primegen_genWitness_draws e⟩
  case keyWitness k =>
    obtain ⟨-, ho, -, -, ht, -⟩ := hp
    exact ⟨ht, .keygen, by rw [ho]; rfl, keygen_keyWitness_draws e⟩
  all_goals cases hw

/-- While PRIMEGEN awaits a candidate, its width has passed the entry check. -/
theorem exec_genCandidate {s : State} (h : Inv s) (hp : s.phase = .genCandidate) :
    bitWidthOk s.sizeNat = true ∧
      ∃ i, decode s.opc = .ok i ∧ drawsOnce (candidateRange s.sizeNat) s (exec i s) := by
  obtain ⟨-, ho, hn⟩ : s.busy = true ∧ s.opc = 5#32 ∧ bitWidthOk s.sizeNat = true := by
    simpa [phaseOk, hp] using h.phase
  exact ⟨hn, .primegen, by rw [ho]; rfl, primegen_genCandidate_draws hp⟩

/-- While KEYGEN awaits a candidate, the width of its primes is one that PRIMEGEN accepts. -/
theorem exec_keyCandidate {s : State} {k : KeySlot} (h : Inv s) (hp : s.phase = .keyCandidate k) :
    bitWidthOk s.primeWidth = true ∧
      ∃ i, decode s.opc = .ok i ∧ drawsOnce (candidateRange s.primeWidth) s (exec i s) := by
  obtain ⟨-, ho, hn, -⟩ : s.busy = true ∧ s.opc = 6#32 ∧ keySizeOk s.sizeNat = true ∧ firstPrimeDone k s := by
    simpa [phaseOk, hp] using h.phase
  obtain ⟨h0, heven, hW⟩ := (keySizeOk_iff _).mp hn
  exact ⟨(bitWidthOk_iff _).mpr ⟨by unfold State.primeWidth; omega, (Nat.div_le_self _ _).trans hW⟩,
    .keygen, by rw [ho]; rfl, keygen_keyCandidate_draws hp⟩

/-- The next sequencer step makes the draw that the port requests. -/
theorem step_drawsOnce {s : State} {range : Nat × Nat} (h : Inv s) (hh : s.host = [])
    (hd : drawRequest s = some range) : drawsOnce range s (step s) := by
  obtain ⟨hb, ⟨hw, rfl⟩ | ⟨hp, rfl⟩ | ⟨k, hp, rfl⟩⟩ := drawRequest_eq_some hd
  · obtain ⟨-, i, hi, hx⟩ := exec_awaitsWitness h hw
    exact step_exec hb hh hi ▸ hx
  · obtain ⟨-, i, hi, hx⟩ := exec_genCandidate h hp
    exact step_exec hb hh hi ▸ hx
  · obtain ⟨-, i, hi, hx⟩ := exec_keyCandidate h hp
    exact step_exec hb hh hi ▸ hx

/-- The candidate range of an accepted width is not empty and fits (45_prime_generator.md R201, R202). -/
theorem candidateRange_legal {n : Nat} (h : bitWidthOk n = true) :
    (candidateRange n).1 ≤ (candidateRange n).2 ∧ (candidateRange n).2 < 2 ^ Config.W := by
  obtain ⟨h0, hW⟩ := (bitWidthOk_iff n).mp h
  have hlt : 2 ^ (n - 1) < 2 ^ n := Nat.pow_lt_pow_right (by decide) (by omega)
  have hle : 2 ^ n ≤ 2 ^ Config.W := Nat.pow_le_pow_right (by decide) hW
  exact ⟨Nat.le_sub_one_of_lt hlt, (Nat.sub_one_lt (Nat.two_pow_pos n).ne').trans_le hle⟩

/-- Settles O19: a witness range lies below its candidate, which fits, and a candidate range has an accepted width. -/
theorem drawRequestsAreLegal : Obligations.DrawRequestsAreLegal := by
  intro s lo hi h hd
  obtain ⟨-, ⟨hw, e⟩ | ⟨hp, e⟩ | ⟨k, hp, e⟩⟩ := drawRequest_eq_some hd
  · obtain ⟨-, hr, -⟩ := (exec_awaitsWitness h hw).1
    have hlt := (witnessRange_le s.loose s.tst.cand).trans_lt h.words.cand
    rw [← e] at hr hlt
    exact ⟨hr, hlt⟩
  · have hc := candidateRange_legal (exec_genCandidate h hp).1
    rwa [← e] at hc
  · have hc := candidateRange_legal (exec_keyCandidate h hp).1
    rwa [← e] at hc

/-- A state that steps to itself stays for ever. -/
theorem steps_of_step_self {s : State} (h : step s = .next s) (n : Nat) : steps n s = .next s := by
  induction n with
  | zero => rfl
  | succ n ih => rw [steps_succ h, ih]

/-- Settles O20: the step is the requested draw, which waits without an answer and stops on one out of range. -/
theorem unansweredDrawWaitsForEver : Obligations.UnansweredDrawWaitsForEver := by
  intro s lo hi h hh hd
  have hx := step_drawsOnce h hh hd
  exact ⟨fun ha n => ⟨steps_of_step_self (drawsOnce_waits hx ha) n, (drawRequest_eq_some hd).1⟩,
    fun v ws ha hv => drawsOnce_outOfContract hx ha hv⟩

/-- Settles O21: the step is the requested draw, and whatever the answer, the command goes on. -/
theorem everyLegalAnswerIsTaken : Obligations.EveryLegalAnswerIsTaken :=
  fun _ _ _ _ _ h hh hd ha => goesOnWith_of_drawsOnce (step_drawsOnce h hh hd) ha

end Sys2Proof.Machine

/-! PROOFS. Encoding: a command's word and no other selects it, any other word completes at once with
IllegalCommand, and the pseudo-commands expand to a transform. -/

namespace Sys2Proof.Machine

open Sys2Proof.Safety

/-! ### Decoder and encoder -/

theorem decode_encode (i : Instr) : decode (encode i) = .ok i := by
  cases i <;> rfl

theorem decode_eq_ok_iff {w : CtlWord} {i : Instr} : decode w = .ok i ↔ w = encode i :=
  ⟨eq_encode_of_decode, fun h => h ▸ decode_encode i⟩

/-- Settles O3: the decoder inverts the encoder command by command, and only a command's own word decodes to it. -/
theorem decodeEncodeAgree : Obligations.DecodeEncodeAgree :=
  ⟨decode_encode, fun _ _ h => (eq_encode_of_decode h).symm⟩

/-- Settles O2: a word decodes to a command exactly when it is the command's word, whose number is the opcode. -/
theorem wordSelectsCommandIffEqual : Obligations.WordSelectsCommandIffEqual := by
  intro w i
  rw [decode_eq_ok_iff, ← BitVec.toNat_inj]
  cases i <;> exact Iff.rfl

/-- Settles O1: the seven words are the commands' encodings, and on the other four the decoder computes its
reason. -/
theorem commandWordsDecode : Obligations.CommandWordsDecode :=
  ⟨decode_encode .modmul, decode_encode .modexp, decode_encode .modinv, decode_encode .primetest,
    decode_encode .primegen, decode_encode .keygen, decode_encode .transform, rfl, rfl, rfl, rfl⟩

/-! ### Writes to an idle block -/

section IdleWrites

variable {s : State} {v : Nat} {rest : List HostEvent} (hv : v < 2 ^ Config.W) (hb : s.busy = false)
include hv hb

theorem step_write_opa (h : s.host = wrEvent .opa v :: rest) : step s = .next { s with host := rest, opa := v } :=
  (step_hostWrite h hv).trans (congrArg _ (if_neg (ne_true_of_eq_false hb)))

theorem step_write_opb (h : s.host = wrEvent .opb v :: rest) : step s = .next { s with host := rest, opb := v } :=
  (step_hostWrite h hv).trans (congrArg _ (if_neg (ne_true_of_eq_false hb)))

theorem step_write_opm (h : s.host = wrEvent .opm v :: rest) : step s = .next { s with host := rest, opm := v } :=
  (step_hostWrite h hv).trans (congrArg _ (if_neg (ne_true_of_eq_false hb)))

/-- A write to CMD is the acceptance of the datum's low 32 bits (40_sequencer.md R111). -/
theorem step_write_cmd (h : s.host = wrEvent .cmd v :: rest) :
    step s = .next (accept (BitVec.ofNat 32 v) { s with host := rest }) :=
  (step_hostWrite h hv).trans (congrArg _ (if_neg (ne_true_of_eq_false hb)))

end IdleWrites

/-! ### Illegal words -/

theorem encode_toNat_bounds (i : Instr) : 1 ≤ (encode i).toNat ∧ (encode i).toNat ≤ 7 := by
  cases i <;> decide

/-- The word 0 and the words from 8 on name no command (30_encoding.md R94). -/
theorem exists_decode_error {w : CtlWord} (h : w.toNat = 0 ∨ 8 ≤ w.toNat) : ∃ e, decode w = .error e := by
  cases hd : decode w with
  | error e => exact ⟨e, rfl⟩
  | ok i =>
    have hi := encode_toNat_bounds i
    rw [← eq_encode_of_decode hd] at hi
    omega

/-- The sequencer answers a word that names no command with IllegalCommand (40_sequencer.md R114). -/
theorem sequencerStep_illegal {s : State} {e : DecodeError} (h : decode s.opc = .error e) :
    sequencerStep s = .next (errorComplete .illegalCommand s) := by
  simp [sequencerStep, h, execIllegal]

/-- Settles O15: the first step accepts the word, the second finds that it decodes to no command. -/
theorem illegalWordCompletesAtOnce : Obligations.IllegalWordCompletesAtOnce := by
  intro s v hb hv hh hw
  set u := accept (BitVec.ofNat 32 v) { s with host := [] }
  have haccept : step s = .next u := step_write_cmd hv hb hh
  obtain ⟨e, he⟩ := exists_decode_error (w := BitVec.ofNat 32 v) (by rwa [BitVec.toNat_ofNat])
  have hillegal : step u = .next (errorComplete .illegalCommand u) :=
    (step_sequencer (accept_busy _ _) rfl).trans (sequencerStep_illegal he)
  refine ⟨errorComplete .illegalCommand u, ?_, ⟨rfl, rfl, rfl, rfl⟩, rfl, rfl, rfl, rfl, rfl, rfl, rfl, rfl, rfl, rfl,
    rfl, rfl, rfl⟩
  rw [steps_succ haccept, steps_succ hillegal]
  rfl

/-! ### The transform -/

theorem powCommand_of_opm_eq_zero {s : State} (h : s.opm = 0) :
    powCommand s = .next (errorComplete .modulusTooSmall s) :=
  if_pos h

/-- With a modulus the engine's command completes with the power (42_modular_exponentiation.md R142). -/
theorem powCommand_of_opm_ne_zero {s : State} (h : s.opm ≠ 0) :
    powCommand s =
      .next (complete (s.opa ^ s.opb % s.opm) 0 false { s with exp := (modPow s.exp s.opa s.opb s.opm).2 }) := by
  rw [powCommand, if_neg h, ← modPow_value s.exp s.opa s.opb s.opm h]

/-! ### The host-script notation -/

/-- The four pseudo-commands have one expansion (30_encoding.md R98). -/
theorem expandStmt_pseudoCommand {c : HostStmt} {a b n : Nat}
    (h : c ∈ [HostStmt.encrypt a b n, HostStmt.decrypt a b n, HostStmt.sign a b n, HostStmt.verify a b n]) :
    expandStmt c = transformEvents a b n := by
  simp only [List.mem_cons, List.not_mem_nil, or_false] at h
  obtain rfl | rfl | rfl | rfl := h <;> rfl

/-- An idle block accepts the word of the command that a script issues (30_encoding.md R97). -/
theorem step_issueEvent {s : State} {i : Instr} {rest : List HostEvent} (hb : s.busy = false)
    (h : s.host = issueEvent i :: rest) : step s = .next (accept (encode i) { s with host := rest }) := by
  rw [step_write_cmd ((encode i).isLt.trans_le two_pow_32_le) hb h, BitVec.ofNat_toNat, BitVec.setWidth_eq]

/-- A pseudo-command, performed by an idle block, writes the operands and then the TRANSFORM word. -/
theorem steps_transformEvents {s : State} {a b n : Nat} (hb : s.busy = false) (hh : s.host = transformEvents a b n)
    (ha : a < 2 ^ Config.W) (he : b < 2 ^ Config.W) (hn : n < 2 ^ Config.W) :
    steps 4 s = .next (accept (encode .transform) { s with host := [], opa := a, opb := b, opm := n }) :=
  calc steps 4 s
      = steps 3 { s with host := [wrEvent .opb b, wrEvent .opm n, issueEvent .transform], opa := a } :=
        steps_succ (step_write_opa ha hb hh) 3
    _ = steps 2 { s with host := [wrEvent .opm n, issueEvent .transform], opa := a, opb := b } := by
        apply steps_succ
        exact step_write_opb he hb rfl
    _ = steps 1 { s with host := [issueEvent .transform], opa := a, opb := b, opm := n } := by
        apply steps_succ
        exact step_write_opm hn hb rfl
    _ = steps 0 (accept (encode .transform) { s with host := [], opa := a, opb := b, opm := n }) := by
        apply steps_succ
        exact step_issueEvent hb rfl

/-- Settles O27: four steps write the operands and the TRANSFORM word, the fifth runs the engine. -/
theorem pseudoCommandsTransform : Obligations.PseudoCommandsTransform := by
  intro s a b n c hc hb hh ha he hn
  set u := accept (encode .transform) { s with host := [], opa := a, opb := b, opm := n }
  have hfour : steps 4 s = .next u := steps_transformEvents hb (hh.trans (expandStmt_pseudoCommand hc)) ha he hn
  have hfive : steps 5 s = steps 1 u := steps_add hfour 1
  have hrun : step u = powCommand u := step_exec (accept_busy _ _) rfl (decode_encode .transform)
  rw [hfive]
  by_cases h0 : n = 0
  · exact ⟨_, steps_succ (hrun.trans (powCommand_of_opm_eq_zero h0)) 0, fun h => absurd h0 h,
      fun _ => ⟨rfl, rfl, rfl, rfl⟩, rfl, rfl, rfl, rfl, rfl, rfl, rfl, rfl, rfl⟩
  · exact ⟨_, steps_succ (hrun.trans (powCommand_of_opm_ne_zero h0)) 0, fun _ => ⟨rfl, rfl, rfl, rfl⟩,
      fun h => absurd h h0, rfl, rfl, rfl, rfl, rfl, rfl, rfl, rfl, rfl⟩

end Sys2Proof.Machine

/-! PROOFS. The sequencer: which step runs a command and which does nothing, that a completion forgets the results of
earlier commands, and which registers a command leaves alone. -/

namespace Sys2Proof.Machine

open Sys2Proof.Safety

/-! ### Who moves -/

/-- While busy, WAIT stays in front of the script and the sequencer moves (30_encoding.md R97). -/
theorem step_busy_wait {s : State} {rest : List HostEvent} (hb : s.busy = true) (hh : s.host = .wait :: rest) :
    step s = sequencerStep s := by
  simp [step, nextMover, hh, hb]

/-- While busy, a pause is used up by one turn of the sequencer. -/
theorem step_busy_pause {s : State} {rest : List HostEvent} (hb : s.busy = true) (hh : s.host = .pause :: rest) :
    step s = sequencerStep { s with host := rest } := by
  simp [step, nextMover, hh, hb]

theorem step_idle_wait {s : State} {rest : List HostEvent} (hb : s.busy = false) (hh : s.host = .wait :: rest) :
    step s = .next { s with host := rest } := by
  simp [step, nextMover, hh, hb]

theorem step_idle_pause {s : State} {rest : List HostEvent} (hb : s.busy = false) (hh : s.host = .pause :: rest) :
    step s = .next { s with host := rest } := by
  simp [step, nextMover, hh, hb]

/-- The sequencer runs the command that OPC decodes to (40_sequencer.md R113). -/
theorem sequencerStep_exec {s : State} {i : Instr} (hd : decode s.opc = .ok i) : sequencerStep s = exec i s := by
  simp [sequencerStep, hd]

/-- Settles O4: in each of the three cases the sequencer moves, and it runs the decoded command. -/
theorem stepRunsDecodedCommand : Obligations.StepRunsDecodedCommand :=
  fun _ _ hb hd _ =>
    ⟨fun hh => step_exec hb hh hd, fun _ hh => (step_busy_wait hb hh).trans (sequencerStep_exec hd),
      fun _ hh => (step_busy_pause hb hh).trans (sequencerStep_exec hd)⟩

/-- Settles O11: while idle nobody but the host moves, and WAIT and pause are used up. -/
theorem idleBlockDoesNothing : Obligations.IdleBlockDoesNothing :=
  fun _ hb => ⟨step_idle hb, fun _ => step_idle_wait hb, fun _ => step_idle_pause hb⟩

/-- Settles O6: the write is the acceptance of its low 32 bits. -/
theorem acceptanceOpensBusyWindow : Obligations.AcceptanceOpensBusyWindow :=
  fun _ _ _ hb hv hh =>
    ⟨_, step_write_cmd hv hb hh, rfl, rfl, rfl, rfl, rfl, rfl, rfl, rfl, rfl, rfl, rfl, rfl⟩

theorem ofNat_mod_width (w : Nat) : BitVec.ofNat 32 (w % 2 ^ 32) = BitVec.ofNat 32 w :=
  BitVec.eq_of_toNat_eq (Nat.mod_mod w (2 ^ 32))

theorem decode_of_decodeTableWord {w : Nat} {i : Instr} (h : decodeTableWord 32 w = some i) :
    decode (BitVec.ofNat 32 w) = .ok i := by
  rw [decodeTableWord, ofNat_mod_width] at h
  split at h
  · next hd => rw [hd, Option.some.inj h]
  · cases h

/-- Settles O5: the pause gives the sequencer the turn, and OPC holds the placed word. -/
theorem fetchedWordRuns : Obligations.FetchedWordRuns := by
  intro s w i hd
  calc step (s.withFetchWord 32 w)
      = sequencerStep (accept (BitVec.ofNat 32 (w % 2 ^ 32)) s) :=
        step_busy_pause (accept_busy (BitVec.ofNat 32 (w % 2 ^ 32)) s) rfl
    _ = sequencerStep (accept (BitVec.ofNat 32 w) s) := by rw [ofNat_mod_width]
    _ = exec i (accept (BitVec.ofNat 32 w) s) := sequencerStep_exec (decode_of_decodeTableWord hd)

/-! ### What RES0 and RES1 held before -/

/-- Other values in RES0 and RES1. -/
def withResults (a b : Nat) (s : State) : State :=
  { s with res0 := a, res1 := b }

/-- `x` is an outcome of a command, and `y` the one with `a` and `b` in RES0 and RES1 before: while the command goes
on they are still there and BUSY is still `busy`, and a completion forgets them (40_sequencer.md R118). -/
inductive ForgetsResults (a b : Nat) (busy : Bool) : Result → Result → Prop where
  | goesOn {t : State} (hb : t.busy = busy) : ForgetsResults a b busy (.next t) (.next (withResults a b t))
  | completes {t : State} (hb : t.busy = false) : ForgetsResults a b busy (.next t) (.next t)
  | fault (r : Fault) : ForgetsResults a b busy (.fault r) (.fault r)

/-- Two invocations of the tester stand at the same point with the same BUSY, the second one with `a` and `b` in RES0
and RES1. -/
inductive TestsForgetful (a b : Nat) (busy : Bool) : State × TestProgress → State × TestProgress → Prop where
  | stand {t : State} (p : TestProgress) (hb : t.busy = busy) :
    TestsForgetful a b busy (t, p) (withResults a b t, p)

section ForgetsResults

variable {a b : Nat} {busy : Bool}

theorem ForgetsResults.completed {y : Result} {t : State} (h : ForgetsResults a b true (.next t) y)
    (ht : t.busy = false) : y = .next t := by
  cases h with
  | goesOn hb => cases ht.symm.trans hb
  | completes _ => rfl

theorem ForgetsResults.wentOn {y : Result} {t : State} (h : ForgetsResults a b busy (.next t) y)
    (ht : t.busy = true) : y = .next (withResults a b t) := by
  cases h with
  | goesOn _ => rfl
  | completes hb => cases hb.symm.trans ht

theorem forgetsResults_of_completes {s : State} {x : Result} (h : completesFrom s x) :
    ForgetsResults a b busy x x := by
  obtain ⟨t, rfl, hb, -⟩ := h
  exact .completes hb

theorem forgetsResults_draw {s : State} {range : Nat × Nat} {f : Nat → State → Result}
    (hf : ∀ v r, ForgetsResults a b s.busy (f v { s with rand := r }) (f v (withResults a b { s with rand := r }))) :
    ForgetsResults a b s.busy (draw range f s) (draw range f (withResults a b s)) := by
  have hr : (withResults a b s).rand = s.rand := rfl
  unfold draw
  rw [hr]
  split
  · exact .goesOn rfl
  · exact ite_related Iff.rfl (hf _ _) (.fault _)

theorem testsForgetful_testBegin (c : Nat) (t : State) :
    TestsForgetful a b t.busy (testBegin c t) (testBegin c (withResults a b t)) :=
  ite_related Iff.rfl (.stand _ rfl) (ite_related Iff.rfl (.stand _ rfl) (.stand _ rfl))

theorem testsForgetful_testTrial (c : Nat) (t : State) :
    TestsForgetful a b t.busy (testTrial c t) (testTrial c (withResults a b t)) :=
  ite_related Iff.rfl (.stand _ rfl) (ite_related Iff.rfl (.stand _ rfl) (.stand _ rfl))

theorem testsForgetful_genCandidateDrawn (c : Nat) (t : State) :
    TestsForgetful a b t.busy (genCandidateDrawn c t) (genCandidateDrawn c (withResults a b t)) :=
  testsForgetful_testBegin c { t with tries := bumpTries t.tries }

theorem forgetsResults_primetestGo {x y : State × TestProgress} (h : TestsForgetful a b busy x y) :
    ForgetsResults a b busy (primetestGo x) (primetestGo y) := by
  obtain @⟨t, p, hb⟩ := h
  cases p with
  | needsWitness => exact .goesOn hb
  | verdict v => exact .completes (complete_busy 0 0 v t)

theorem forgetsResults_primegenGo {x y : State × TestProgress} (h : TestsForgetful a b busy x y) :
    ForgetsResults a b busy (primegenGo x) (primegenGo y) := by
  obtain @⟨t, p, hb⟩ := h
  match p with
  | .needsWitness => exact .goesOn hb
  | .verdict false => exact .goesOn hb
  | .verdict true => exact .completes (complete_busy t.tst.cand 0 false t)

/-- The key is derived without reading RES0 or RES1, and the derivation completes (46_keypair_generator.md R221). -/
theorem forgetsResults_keyFinish (t : State) :
    ForgetsResults a b busy (keyFinish t) (keyFinish (withResults a b t)) := by
  change ForgetsResults a b busy (keyFinish t) (keyFinish t)
  unfold keyFinish
  simp only []
  split
  · exact .completes (complete_busy ..)
  · exact .completes (errorComplete_busy ..)

theorem forgetsResults_keygenGo {x y : State × TestProgress} (h : TestsForgetful a b busy x y) (k : KeySlot) :
    ForgetsResults a b busy (keygenGo k x) (keygenGo k y) := by
  obtain @⟨t, p, hb⟩ := h
  match p, k with
  | .needsWitness, _ => exact .goesOn hb
  | .verdict false, _ => exact .goesOn hb
  | .verdict true, .p => exact .goesOn hb
  | .verdict true, .q => exact forgetsResults_keyFinish { t with key := { t.key with q := t.tst.cand } }

theorem forgetsResults_primetest (a b : Nat) (s : State) :
    ForgetsResults a b s.busy (exec .primetest s) (exec .primetest (withResults a b s)) := by
  by_cases hp : s.phase = .testWitness
  · rw [exec_primetest_testWitness hp, exec_primetest_testWitness (s := withResults a b s) hp]
    exact forgetsResults_draw fun v r =>
      forgetsResults_primetestGo (testsForgetful_testTrial v { s with rand := r })
  · rw [exec_primetest_entry hp, exec_primetest_entry (s := withResults a b s) hp]
    exact forgetsResults_primetestGo (testsForgetful_testBegin s.opa s)

theorem forgetsResults_primegen (a b : Nat) (s : State) :
    ForgetsResults a b s.busy (exec .primegen s) (exec .primegen (withResults a b s)) := by
  by_cases hp : s.phase = .genCandidate
  · rw [exec_primegen_genCandidate hp, exec_primegen_genCandidate (s := withResults a b s) hp]
    exact forgetsResults_draw fun c r =>
      forgetsResults_primegenGo (testsForgetful_genCandidateDrawn c { s with rand := r })
  by_cases hp' : s.phase = .genWitness
  · rw [exec_primegen_genWitness hp', exec_primegen_genWitness (s := withResults a b s) hp']
    exact forgetsResults_draw fun v r =>
      forgetsResults_primegenGo (testsForgetful_testTrial v { s with rand := r })
  · rw [exec_primegen_entry hp hp', exec_primegen_entry (s := withResults a b s) hp hp']
    exact ite_related Iff.rfl (.goesOn rfl) (.completes (errorComplete_busy .invalidBitWidth s))

theorem forgetsResults_keygen (a b : Nat) (s : State) :
    ForgetsResults a b s.busy (exec .keygen s) (exec .keygen (withResults a b s)) := by
  by_cases hp : ∃ k, s.phase = .keyCandidate k
  · obtain ⟨k, hp⟩ := hp
    rw [exec_keygen_keyCandidate hp, exec_keygen_keyCandidate (s := withResults a b s) hp]
    exact forgetsResults_draw fun c r =>
      forgetsResults_keygenGo (testsForgetful_genCandidateDrawn c { s with rand := r }) k
  by_cases hp' : ∃ k, s.phase = .keyWitness k
  · obtain ⟨k, hp'⟩ := hp'
    rw [exec_keygen_keyWitness hp', exec_keygen_keyWitness (s := withResults a b s) hp']
    exact forgetsResults_draw fun v r =>
      forgetsResults_keygenGo (testsForgetful_testTrial v { s with rand := r }) k
  · rw [not_exists] at hp hp'
    rw [exec_keygen_entry hp hp', exec_keygen_entry (s := withResults a b s) hp hp']
    exact ite_related Iff.rfl (.goesOn rfl) (.completes (errorComplete_busy .invalidBitWidth s))

/-- A command that does not draw completes, and its meaning does not read RES0 or RES1. -/
theorem forgetsResults_exec (i : Instr) (a b : Nat) (s : State) :
    ForgetsResults a b s.busy (exec i s) (exec i (withResults a b s)) := by
  cases i with
  | modmul => exact forgetsResults_of_completes (execModmul_completes s)
  | modexp => exact forgetsResults_of_completes (powCommand_completes s)
  | modinv => exact forgetsResults_of_completes (execModinv_completes s)
  | transform => exact forgetsResults_of_completes (powCommand_completes s)
  | primetest => exact forgetsResults_primetest a b s
  | primegen => exact forgetsResults_primegen a b s
  | keygen => exact forgetsResults_keygen a b s

end ForgetsResults

/-- Settles O49: each command that goes on carries RES0 and RES1 along unread, and each completion overwrites both. -/
theorem noOldResultSurvives : Obligations.NoOldResultSurvives := by
  intro i s t a b hs h ht
  have hf := forgetsResults_exec i a b s
  rw [h, hs] at hf
  exact hf.completed ht

/-- With RES0 and RES1 as they are, a command that goes on leaves them as they are. -/
theorem exec_keepsResults {i : Instr} {s t : State} (h : exec i s = .next t) (ht : t.busy = true) :
    t.res0 = s.res0 ∧ t.res1 = s.res1 := by
  have hf : ForgetsResults s.res0 s.res1 s.busy (exec i s) (exec i s) := forgetsResults_exec i s.res0 s.res1 s
  rw [h] at hf
  have hw : t = withResults s.res0 s.res1 t := Host.Outcome.next.inj (hf.wentOn ht)
  exact ⟨congrArg (·.res0) hw, congrArg (·.res1) hw⟩

/-! ### The working registers a command leaves alone -/

/-- All the working registers are as in `s`. -/
def keepsScratch (s t : State) : Prop :=
  t.exp = s.exp ∧ t.inv = s.inv ∧ t.tst = s.tst ∧ t.key = s.key

/-- The working registers of key generation are as in `s`. -/
def keepsKey (s t : State) : Prop :=
  t.key = s.key

/-- MODMUL uses no working register (41_modular_multiplier.md R130). -/
theorem execModmul_keepsScratch (s : State) : nextMeets (keepsScratch s) (execModmul s) := by
  unfold execModmul
  split <;> exact ⟨rfl, rfl, rfl, rfl⟩

/-- The engine's command changes the engine's registers only. -/
theorem powCommand_frame {s t : State} (h : powCommand s = .next t) :
    t.inv = s.inv ∧ t.tst = s.tst ∧ t.key = s.key ∧ (s.opm = 0 → t.exp = s.exp) := by
  by_cases hm : s.opm = 0
  · cases h.symm.trans (powCommand_of_opm_eq_zero hm)
    exact ⟨rfl, rfl, rfl, fun _ => rfl⟩
  · cases h.symm.trans (powCommand_of_opm_ne_zero hm)
    exact ⟨rfl, rfl, rfl, fun h0 => absurd h0 hm⟩

/-- MODINV changes the inverse unit's registers only. -/
theorem execModinv_frame {s t : State} (h : execModinv s = .next t) :
    t.exp = s.exp ∧ t.tst = s.tst ∧ t.key = s.key ∧ (s.opm = 0 → t.inv = s.inv) := by
  unfold execModinv at h
  split at h
  · cases h
    exact ⟨rfl, rfl, rfl, fun _ => rfl⟩
  · next hm =>
    simp only [] at h
    split at h <;> cases h <;> exact ⟨rfl, rfl, rfl, fun h0 => absurd h0 hm⟩

theorem primetestGo_keepsKey {s : State} {x : State × TestProgress} (h : keepsKey s x.1) :
    nextMeets (keepsKey s) (primetestGo x) := by
  unfold primetestGo
  split <;> exact h

theorem primegenGo_keepsKey {s : State} {x : State × TestProgress} (h : keepsKey s x.1) :
    nextMeets (keepsKey s) (primegenGo x) := by
  unfold primegenGo
  split <;> exact h

/-- PRIMETEST invokes the tester, and the tester the engine and the inverse unit (44_primality_tester.md R184, R186). -/
theorem primetest_keepsKey (s : State) : nextMeets (keepsKey s) (exec .primetest s) := by
  by_cases hp : s.phase = .testWitness
  · rw [exec_primetest_testWitness hp]
    exact draw_nextMeets rfl fun v _ _ _ => primetestGo_keepsKey (testTrial_key v _)
  · rw [exec_primetest_entry hp]
    exact primetestGo_keepsKey (testBegin_key s.opa s)

/-- PRIMEGEN invokes the generator, and the generator the tester (45_prime_generator.md R203, R204). -/
theorem primegen_keepsKey (s : State) : nextMeets (keepsKey s) (exec .primegen s) := by
  by_cases hp : s.phase = .genCandidate
  · rw [exec_primegen_genCandidate hp]
    exact draw_nextMeets rfl fun c _ _ _ => primegenGo_keepsKey (testBegin_key c _)
  by_cases hp' : s.phase = .genWitness
  · rw [exec_primegen_genWitness hp']
    exact draw_nextMeets rfl fun v _ _ _ => primegenGo_keepsKey (testTrial_key v _)
  · rw [exec_primegen_entry hp hp']
    split <;> exact rfl

/-- The entry step of PRIMEGEN checks the width and invokes no unit (45_prime_generator.md R201). -/
theorem primegen_entry_keepsScratch {s : State} (hp : s.phase = .entry) :
    nextMeets (keepsScratch s) (exec .primegen s) := by
  rw [exec_primegen_entry (by simp [hp]) (by simp [hp])]
  split <;> exact ⟨rfl, rfl, rfl, rfl⟩

/-- The entry step of KEYGEN checks the key size and invokes no unit (46_keypair_generator.md R216). -/
theorem keygen_entry_keepsScratch {s : State} (hp : s.phase = .entry) :
    nextMeets (keepsScratch s) (exec .keygen s) := by
  rw [exec_keygen_entry (by simp [hp]) (by simp [hp])]
  split <;> exact ⟨rfl, rfl, rfl, rfl⟩

/-- Settles O55: a command that goes on carries RES0 and RES1 along, and each command's frame is that of the units it
invokes. -/
theorem unitsKeepOtherRegisters : Obligations.UnitsKeepOtherRegisters := by
  intro i s t h
  refine ⟨exec_keepsResults h, ?_⟩
  cases i with
  | modmul => exact nextMeets_iff.mp (execModmul_keepsScratch s) t h
  | modexp => exact powCommand_frame h
  | transform => exact powCommand_frame h
  | modinv => exact execModinv_frame h
  | primetest => exact nextMeets_iff.mp (primetest_keepsKey s) t h
  | primegen =>
    refine ⟨nextMeets_iff.mp (primegen_keepsKey s) t h, fun hp => ?_⟩
    obtain ⟨he, hv, hu, -⟩ := nextMeets_iff.mp (primegen_entry_keepsScratch hp) t h
    exact ⟨he, hv, hu⟩
  | keygen => exact fun hp => nextMeets_iff.mp (keygen_entry_keepsScratch hp) t h

end Sys2Proof.Machine

/-! PROOFS. The modular multiplier: what MODMUL computes, and its error. -/

namespace Sys2Proof.Machine

open Sys2Proof.Safety

/-! ### What a completion leaves -/

/-- A completion without an error (40_sequencer.md R116). -/
theorem completedOk_complete (f : Bool) (r0 r1 : Nat) (s : State) : completedOk f r0 r1 (complete r0 r1 f s) := by
  refine ⟨?_, complete_errcode .., complete_res0 .., complete_res1 ..⟩
  rw [complete_status]
  cases f <;> rfl

/-- An error completion (60_exceptions.md R256). -/
theorem completedErr_errorComplete (k : ErrorKind) (s : State) : completedErr k.code (errorComplete k s) :=
  ⟨errorComplete_status .., errorComplete_errcode .., errorComplete_res0 .., errorComplete_res1 ..⟩

/-! ### MODMUL -/

theorem execModmul_of_opm_eq_zero {s : State} (h : s.opm = 0) :
    execModmul s = .next (errorComplete .modulusTooSmall s) :=
  if_pos h

/-- With a modulus MODMUL completes with the reduced product (41_modular_multiplier.md R130). -/
theorem execModmul_of_opm_ne_zero {s : State} (h : s.opm ≠ 0) :
    execModmul s = .next (complete (s.opa * s.opb % s.opm) 0 false s) :=
  if_neg h

/-- Settles O22: the frame is that of every draw-free command, and which completion it is depends on OPM alone. -/
theorem modmulResult : Obligations.ModmulResult := by
  intro s
  obtain ⟨t, ht, -, -, hrand, htries⟩ := execModmul_completes s
  obtain ⟨hin, hhost⟩ := nextMeets_iff.mp (keepsInputs_execModmul s) t ht
  refine ⟨t, ht, hin, hhost, hrand, htries, fun hm => ?_, fun hm => ?_⟩
  · cases ht.symm.trans (execModmul_of_opm_ne_zero hm)
    exact completedOk_complete ..
  · cases ht.symm.trans (execModmul_of_opm_eq_zero hm)
    exact completedErr_errorComplete .modulusTooSmall s

end Sys2Proof.Machine

/-! PROOFS. The exponentiation engine: what MODEXP computes, its loop invariant, and how many iterations it runs. -/

namespace Sys2Proof.Machine

open Sys2Proof.Safety

/-! ### MODEXP -/

/-- Settles O23: the frame is that of every draw-free command, and which completion it is depends on OPM alone. -/
theorem modexpResult : Obligations.ModexpResult := by
  intro s
  obtain ⟨t, ht, -, -, hrand, htries⟩ := powCommand_completes s
  obtain ⟨hin, hhost⟩ := nextMeets_iff.mp (keepsInputs_powCommand s) t ht
  refine ⟨t, ht, hin, hhost, hrand, htries, fun hm => ?_, fun hm => ?_⟩
  · cases ht.symm.trans (powCommand_of_opm_ne_zero hm)
    exact completedOk_complete ..
  · cases ht.symm.trans (powCommand_of_opm_eq_zero hm)
    exact completedErr_errorComplete .modulusTooSmall s

/-! ### One iteration of the exponent loop -/

@[simp] theorem expStep_xBase (m : Nat) (r : ExpRegs) : (expStep m r).xBase = r.xBase * r.xBase % m := rfl

@[simp] theorem expStep_xExp (m : Nat) (r : ExpRegs) : (expStep m r).xExp = r.xExp / 2 := rfl

theorem expStep_xAcc_of_even (m : Nat) {r : ExpRegs} (h : r.xExp % 2 = 0) : (expStep m r).xAcc = r.xAcc := by
  simp [expStep, h]

theorem expStep_xAcc_of_odd (m : Nat) {r : ExpRegs} (h : r.xExp % 2 = 1) :
    (expStep m r).xAcc = r.xAcc * r.xBase % m :=
  if_pos h

/-! ### Any number of iterations -/

/-- Each iteration shifts the exponent by one bit. -/
theorem iterate_expStep_xExp (m k : Nat) (r : ExpRegs) : ((expStep m)^[k] r).xExp = r.xExp / 2 ^ k := by
  induction k with
  | zero => simp
  | succ k ih => rw [Function.iterate_succ_apply', expStep_xExp, ih, Nat.div_div_eq_div_mul, ← pow_succ]

/-- Each iteration squares the base. -/
theorem iterate_expStep_xBase (b e m k : Nat) :
    ((expStep m)^[k] (expInit b e m)).xBase = (b % m) ^ 2 ^ k % m := by
  induction k with
  | zero => simp [expInit]
  | succ k ih => rw [Function.iterate_succ_apply', expStep_xBase, ih, ← Nat.mul_mod, ← pow_add, pow_succ, mul_two]

/-- The accumulator holds the power by the exponent bits shifted out so far: bit `k` of the exponent, if set,
multiplies it by `b0^(2^k)`. -/
theorem iterate_expStep_xAcc (b e k : Nat) {m : Nat} (hm : 2 ≤ m) :
    ((expStep m)^[k] (expInit b e m)).xAcc = (b % m) ^ (e % 2 ^ k) % m := by
  induction k with
  | zero => simp [expInit, Nat.mod_one, Nat.mod_eq_of_lt hm]
  | succ k ih =>
    have hexp : ((expStep m)^[k] (expInit b e m)).xExp = e / 2 ^ k := iterate_expStep_xExp m k _
    rw [Function.iterate_succ_apply', Nat.mod_pow_succ]
    obtain hbit | hbit := Nat.mod_two_eq_zero_or_one (e / 2 ^ k)
    · rw [expStep_xAcc_of_even m (hexp ▸ hbit), ih, hbit, mul_zero, add_zero]
    · rw [expStep_xAcc_of_odd m (hexp ▸ hbit), ih, iterate_expStep_xBase, hbit, mul_one, ← Nat.mul_mod, ← pow_add]

/-- Settles O28: one induction on the number of iterations for each of the three registers. -/
theorem modPowLoopInvariant : Obligations.ModPowLoopInvariant :=
  fun b e m k hm => ⟨iterate_expStep_xBase b e m k, iterate_expStep_xExp m k _, iterate_expStep_xAcc b e k hm⟩

/-! ### The number of iterations -/

/-- X_EXP has run out exactly when as many iterations are done as the exponent has bits. -/
theorem iterate_expStep_xExp_eq_zero_iff (m k : Nat) (r : ExpRegs) :
    ((expStep m)^[k] r).xExp = 0 ↔ bitlen r.xExp ≤ k := by
  rw [iterate_expStep_xExp, bitlen_le_iff, Nat.div_eq_zero_iff_lt (Nat.two_pow_pos k)]

/-- Halving a number takes away one bit. -/
theorem bitlen_eq_bitlen_half_add_one {v : Nat} (h : v ≠ 0) : bitlen v = bitlen (v / 2) + 1 := by
  refine eq_of_forall_ge_iff fun k => ?_
  cases k with
  | zero => simp [bitlen, h]
  | succ k => rw [Nat.add_le_add_iff_right, bitlen_le_iff, bitlen_le_iff, pow_succ, Nat.div_lt_iff_lt_mul two_pos]

/-- With enough fuel the loop is as many iterations as the exponent has bits. -/
theorem expLoop_eq_iterate (m : Nat) {fuel : Nat} {r : ExpRegs} (h : bitlen r.xExp ≤ fuel) :
    expLoop m fuel r = (expStep m)^[bitlen r.xExp] r := by
  induction fuel generalizing r with
  | zero => rw [Nat.le_zero.mp h, expLoop, Function.iterate_zero_apply]
  | succ fuel ih =>
    by_cases h0 : r.xExp = 0
    · have hlen : bitlen r.xExp = 0 := if_pos h0
      rw [expLoop, if_pos h0, hlen, Function.iterate_zero_apply]
    · have hlen : bitlen r.xExp = bitlen (expStep m r).xExp + 1 := bitlen_eq_bitlen_half_add_one h0
      rw [expLoop, if_neg h0, hlen, Function.iterate_succ_apply]
      exact ih (Nat.le_of_succ_le_succ (hlen.symm.trans_le h))

/-- Settles O29: X_EXP runs out with the exponent's bits and not before, and the loop stops when it does. -/
theorem modPowRunsBitlenIterations : Obligations.ModPowRunsBitlenIterations :=
  fun b e m =>
    ⟨fun k hk => mt (iterate_expStep_xExp_eq_zero_iff m k (expInit b e m)).mp (Nat.not_le_of_lt hk),
      (iterate_expStep_xExp_eq_zero_iff m _ (expInit b e m)).mpr le_rfl,
      fun _ h => expLoop_eq_iterate m (r := expInit b e m) h⟩

end Sys2Proof.Machine

/-! PROOFS. The modular inverse unit: what MODINV computes, its errors, and the invariant of its loop. -/

namespace Sys2Proof.Machine

open Sys2Proof.Safety

/-! ### MODINV -/

theorem execModinv_of_opm_eq_zero {s : State} (h : s.opm = 0) :
    execModinv s = .next (errorComplete .modulusTooSmall s) :=
  if_pos h

/-- With an inverse MODINV completes with it (43_modular_inverse.md R165). -/
theorem execModinv_of_some {s : State} {x : Nat} (hm : s.opm ≠ 0) (hx : (modInverse s.opa s.opm).1 = some x) :
    execModinv s = .next (complete x 0 false { s with inv := euclid s.opa s.opm }) := by
  simp only [execModinv, if_neg hm, hx, modInverse_regs]

/-- Without an inverse MODINV completes with NoInverseExists (43_modular_inverse.md R165). -/
theorem execModinv_of_none {s : State} (hm : s.opm ≠ 0) (hx : (modInverse s.opa s.opm).1 = none) :
    execModinv s = .next (errorComplete .noInverseExists { s with inv := euclid s.opa s.opm }) := by
  simp only [execModinv, if_neg hm, hx, modInverse_regs]

/-- A number prime to the modulus has at most one inverse in `[0, modulus)` (43_modular_inverse.md R160). -/
theorem inverse_unique {value modulus x y : Nat} (hg : Nat.gcd value modulus = 1) (hx : x < modulus)
    (hy : y < modulus) (hxv : x * value % modulus = 1 % modulus) (hyv : y * value % modulus = 1 % modulus) :
    y = x := by
  have hmul : y * value ≡ x * value [MOD modulus] := hyv.trans hxv.symm
  exact (hmul.cancel_right_of_coprime ((Nat.gcd_comm ..).trans hg)).eq_of_lt_of_lt hy hx

/-- Settles O24: the frame is that of every draw-free command; which completion it is depends on OPM and on whether
the inverse unit finds an inverse, which it does exactly for coprime operands. -/
theorem modinvResult : Obligations.ModinvResult := by
  intro s
  obtain ⟨t, ht, -, -, hrand, htries⟩ := execModinv_completes s
  obtain ⟨hin, hhost⟩ := nextMeets_iff.mp (keepsInputs_execModinv s) t ht
  refine ⟨t, ht, hin, hhost, hrand, htries, fun hm hg => ?_, fun hm hg => ?_, fun hm => ?_⟩
  · obtain ⟨x, hsome, hlt, hinv⟩ := modInverse_some hm hg
    cases ht.symm.trans (execModinv_of_some hm hsome)
    exact ⟨x, completedOk_complete .., hlt, hinv, fun y hy hyv => inverse_unique hg hlt hy hinv hyv⟩
  · cases ht.symm.trans (execModinv_of_none hm (modInverse_none hg))
    exact completedErr_errorComplete .noInverseExists _
  · cases ht.symm.trans (execModinv_of_opm_eq_zero hm)
    exact completedErr_errorComplete .modulusTooSmall s

/-! ### The Euclid loop -/

/-- Any number of iterations keeps the Bezout invariant (43_modular_inverse.md R162). -/
theorem iterate_euclidStep_bezout (value modulus k : Nat) :
    Bezout value modulus (euclidStep^[k] (euclidInit value modulus)) := by
  induction k with
  | zero => exact euclidInit_bezout value modulus
  | succ k ih =>
    rw [Function.iterate_succ_apply']
    exact euclidStep_bezout ih

/-- Settles O30: the Bezout invariant, its divisibilities read as congruences. -/
theorem euclidLoopInvariant : Obligations.EuclidLoopInvariant := by
  intro value modulus k
  have hb := iterate_euclidStep_bezout value modulus k
  exact ⟨(Int.modEq_iff_dvd.mpr hb.prev).symm, (Int.modEq_iff_dvd.mpr hb.curr).symm⟩

end Sys2Proof.Machine

/-! PROOFS. The primality tester: where an invocation of it stands, what PRIMETEST, PRIMEGEN and KEYGEN make of that at
each draw, that a prime is never rejected, and that the steps of PRIMETEST are the test as a function. -/

namespace Sys2Proof.Machine

open Sys2Proof.Safety

/-! ### The start of a test -/

@[simp] theorem testBegin_tries (c : Nat) (s : State) : (testBegin c s).1.tries = s.tries := by
  obtain ⟨e, v, u, h⟩ := testBegin_frame c s
  rw [h]
  rfl

@[simp] theorem testBegin_cand (c : Nat) (s : State) : (testBegin c s).1.tst.cand = c := by
  obtain ⟨-, e⟩ | ⟨-, -, -, e⟩ | ⟨-, -, -, e⟩ := testBegin_cases c s <;> rw [e]

/-- The command goes on in any phase after the start of a test, for it leaves STATUS and ERRCODE alone. -/
theorem testBegin_waitsAt (p : Phase) (c : Nat) (s : State) : waitsAt p s { (testBegin c s).1 with phase := p } := by
  obtain ⟨e, v, u, h⟩ := testBegin_frame c s
  rw [h]
  exact ⟨rfl, rfl, rfl⟩

theorem roundsNat_pos_iff (s : State) : 0 < s.roundsNat ↔ s.rounds ≠ 0#32 := by
  simp [State.roundsNat, Nat.pos_iff_ne_zero, BitVec.toNat_eq]

section TestBegin

variable {c : Nat} {s : State}

/-- Below 2 the test rejects (44_primality_tester.md R181). -/
theorem testBegin_rejects (h : c < 2) : (testBegin c s).2 = .verdict false := by
  obtain ⟨-, e⟩ | ⟨h2, -⟩ | ⟨h2, -⟩ := testBegin_cases c s
  · rw [e]
  · omega
  · omega

/-- An empty witness range, or no trial at all, accepts (44_primality_tester.md R183, R188). -/
theorem testBegin_accepts (h2 : 2 ≤ c) (h : emptyWitnessRange s.loose c ∨ s.rounds = 0#32) :
    (testBegin c s).2 = .verdict true := by
  obtain ⟨hlt, -⟩ | ⟨-, -, -, e⟩ | ⟨-, -, hne, e⟩ := testBegin_cases c s
  · omega
  · rw [e]
  · have hr : ¬ 0 < s.roundsNat := mt (roundsNat_pos_iff s).mp (not_not.mpr (h.resolve_left hne))
    rw [e]
    exact if_neg hr

/-- Any other candidate begins the loop with TRIAL = 0 (44_primality_tester.md R184). -/
theorem testBegin_waits (h2 : 2 ≤ c) (h : ¬ emptyWitnessRange s.loose c) (hr : s.rounds ≠ 0#32) :
    (testBegin c s).2 = .needsWitness ∧ (testBegin c s).1.tst.cand = c ∧ (testBegin c s).1.tst.trial = 0#32 := by
  obtain ⟨hlt, -⟩ | ⟨-, hl, hc, -⟩ | ⟨-, -, -, e⟩ := testBegin_cases c s
  · omega
  · exact absurd ⟨hl, hc⟩ h
  · rw [e]
    exact ⟨if_pos ((roundsNat_pos_iff s).mpr hr), rfl, rfl⟩

end TestBegin

/-! ### One trial -/

@[simp] theorem testTrial_tries (a : Nat) (s : State) : (testTrial a s).1.tries = s.tries := by
  obtain ⟨e, v, u, h⟩ := testTrial_frame a s
  rw [h]
  rfl

/-- The command goes on in any phase after a trial, for it leaves STATUS and ERRCODE alone. -/
theorem testTrial_waitsAt (p : Phase) (a : Nat) (s : State) : waitsAt p s { (testTrial a s).1 with phase := p } := by
  obtain ⟨e, v, u, h⟩ := testTrial_frame a s
  rw [h]
  exact ⟨rfl, rfl, rfl⟩

section TestTrial

variable {a : Nat} {s : State} (hc : 2 ≤ s.tst.cand)
include hc

theorem testTrial_cand : (testTrial a s).1.tst.cand = s.tst.cand := by
  obtain ⟨_, _, -, -, ⟨-, e⟩ | ⟨-, e⟩⟩ := testTrial_cases a s (by omega) <;> rw [e]

/-- A failing witness rejects at once (44_primality_tester.md R184). -/
theorem testTrial_rejects (h : ¬ FermatPass s.tst.cand a) : (testTrial a s).2 = .verdict false := by
  obtain ⟨_, _, -, -, ⟨hf, -⟩ | ⟨-, e⟩⟩ := testTrial_cases a s (by omega)
  · exact absurd hf h
  · rw [e]

/-- A passing witness counts in TRIAL, and the loop's head decides (44_primality_tester.md R184, R185). -/
theorem testTrial_counts (h : FermatPass s.tst.cand a) (hlt : s.tst.trial.toNat < s.rounds.toNat) :
    (testTrial a s).2 = (if s.tst.trial.toNat + 1 < s.rounds.toNat then .needsWitness else .verdict true) ∧
      (testTrial a s).1.tst.cand = s.tst.cand ∧ (testTrial a s).1.tst.wit = a ∧
      (testTrial a s).1.tst.trial.toNat = s.tst.trial.toNat + 1 := by
  have hn : (s.tst.trial + 1#32).toNat = s.tst.trial.toNat + 1 := by
    have := s.rounds.isLt
    simp only [BitVec.toNat_add, BitVec.toNat_ofNat]
    omega
  obtain ⟨_, _, -, -, ⟨-, e⟩ | ⟨hf, -⟩⟩ := testTrial_cases a s (by omega)
  · rw [e]
    exact ⟨by rw [hn, State.roundsNat], rfl, rfl, hn⟩
  · exact absurd h hf

theorem testTrial_accepts (h : FermatPass s.tst.cand a) (hl : s.tst.trial.toNat + 1 = s.rounds.toNat) :
    (testTrial a s).2 = .verdict true :=
  (testTrial_counts hc h (by omega)).1.trans (if_neg (by omega))

theorem testTrial_waits (h : FermatPass s.tst.cand a) (hl : s.tst.trial.toNat + 1 < s.rounds.toNat) :
    (testTrial a s).2 = .needsWitness ∧ (testTrial a s).1.tst.cand = s.tst.cand ∧ (testTrial a s).1.tst.wit = a ∧
      (testTrial a s).1.tst.trial.toNat = s.tst.trial.toNat + 1 :=
  have ⟨hx, hcount⟩ := testTrial_counts hc h (by omega)
  ⟨hx.trans (if_pos hl), hcount⟩

end TestTrial

/-! ### What the commands make of it -/

section Go

variable {x : State × TestProgress}

theorem primetestGo_of_needsWitness (h : x.2 = .needsWitness) :
    primetestGo x = .next { x.1 with phase := .testWitness } := by
  rw [primetestGo, h]

theorem primetestGo_of_verdict {b : Bool} (h : x.2 = .verdict b) : primetestGo x = .next (complete 0 0 b x.1) := by
  rw [primetestGo, h]

theorem primegenGo_of_needsWitness (h : x.2 = .needsWitness) :
    primegenGo x = .next { x.1 with phase := .genWitness } := by
  rw [primegenGo, h]

theorem primegenGo_of_rejected (h : x.2 = .verdict false) :
    primegenGo x = .next { x.1 with phase := .genCandidate } := by
  rw [primegenGo, h]

theorem primegenGo_of_accepted (h : x.2 = .verdict true) :
    primegenGo x = .next (complete x.1.tst.cand 0 false x.1) := by
  rw [primegenGo, h]

theorem keygenGo_of_needsWitness (k : KeySlot) (h : x.2 = .needsWitness) :
    keygenGo k x = .next { x.1 with phase := .keyWitness k } := by
  rw [keygenGo, h]

theorem keygenGo_of_rejected (k : KeySlot) (h : x.2 = .verdict false) :
    keygenGo k x = .next { x.1 with phase := .keyCandidate k } := by
  rw [keygenGo, h]

theorem keygenGo_of_accepted (k : KeySlot) (h : x.2 = .verdict true) : keygenGo k x = keyPrimeFound k x.1 := by
  rw [keygenGo, h]

end Go

/-- The outcome is a next state with the random source, TRIES and the registers of key generation of `u`. -/
def goesOnFrom (u : State) (y : Result) : Prop :=
  ∃ t, y = .next t ∧ t.rand = u.rand ∧ t.tries = u.tries ∧ t.key = u.key

theorem primetestGo_goesOnFrom (x : State × TestProgress) : goesOnFrom x.1 (primetestGo x) := by
  unfold primetestGo
  split <;> exact ⟨_, rfl, rfl, rfl, rfl⟩

theorem primegenGo_goesOnFrom (x : State × TestProgress) : goesOnFrom x.1 (primegenGo x) := by
  unfold primegenGo
  split <;> exact ⟨_, rfl, rfl, rfl, rfl⟩

/-- KEYGEN has no new prime while the tester has not accepted one. -/
theorem keygenGo_goesOnFrom {x : State × TestProgress} (k : KeySlot) (h : x.2 ≠ .verdict true) :
    goesOnFrom x.1 (keygenGo k x) := by
  unfold keygenGo
  split
  · exact ⟨_, rfl, rfl, rfl, rfl⟩
  · exact ⟨_, rfl, rfl, rfl, rfl⟩
  · next hx => exact absurd hx h

/-- A command that goes on keeps the inputs and the host besides. -/
theorem exec_goesOnFrom {i : Instr} {s u : State} {y : Result} (he : exec i s = y) (hy : goesOnFrom u y) :
    ∃ t, y = .next t ∧ exec i s = .next t ∧ sameInputs s t ∧ sameHost s t ∧ t.rand = u.rand ∧ t.tries = u.tries ∧
      t.key = u.key := by
  obtain ⟨t, ht, hrand, htries, hkey⟩ := hy
  obtain ⟨hin, hhost⟩ := commandsKeepInputs i s t (he.trans ht)
  exact ⟨t, ht, he.trans ht, hin, hhost, hrand, htries, hkey⟩

/-! ### The answered draws -/

/-- `s` when the random source has answered its request for a witness with `a`. -/
def afterWitness (s : State) (a : Nat) (ws : List Nat) : State :=
  { s with rand := answered s (witnessLo s) (witnessHi s) a ws }

/-- `s` when the random source has answered its request for a candidate of `bw` bits with `c`, and TRIES has counted
it (45_prime_generator.md R203). -/
def afterCandidate (s : State) (bw c : Nat) (ws : List Nat) : State :=
  { s with rand := answered s (2 ^ (bw - 1)) (2 ^ bw - 1) c ws, tries := bumpTries s.tries }

section Answered

variable {s : State} {k : KeySlot} {a c : Nat} {ws : List Nat}

theorem exec_primetest_afterWitness (hp : s.phase = .testWitness)
    (ha : nextAnswer s (witnessLo s) (witnessHi s) a ws) :
    exec .primetest s = primetestGo (testTrial a (afterWitness s a ws)) :=
  (exec_primetest_testWitness hp).trans (draw_nextAnswer ha)

theorem exec_primegen_afterWitness (hp : s.phase = .genWitness)
    (ha : nextAnswer s (witnessLo s) (witnessHi s) a ws) :
    exec .primegen s = primegenGo (testTrial a (afterWitness s a ws)) :=
  (exec_primegen_genWitness hp).trans (draw_nextAnswer ha)

theorem exec_primegen_afterCandidate (hp : s.phase = .genCandidate)
    (ha : nextAnswer s (2 ^ (s.size.toNat - 1)) (2 ^ s.size.toNat - 1) c ws) :
    exec .primegen s = primegenGo (testBegin c (afterCandidate s s.size.toNat c ws)) :=
  (exec_primegen_genCandidate hp).trans (draw_nextAnswer ha)

theorem exec_keygen_afterWitness (hp : s.phase = .keyWitness k)
    (ha : nextAnswer s (witnessLo s) (witnessHi s) a ws) :
    exec .keygen s = keygenGo k (testTrial a (afterWitness s a ws)) :=
  (exec_keygen_keyWitness hp).trans (draw_nextAnswer ha)

theorem exec_keygen_afterCandidate (hp : s.phase = .keyCandidate k)
    (ha : nextAnswer s (2 ^ (s.size.toNat / 2 - 1)) (2 ^ (s.size.toNat / 2) - 1) c ws) :
    exec .keygen s = keygenGo k (testBegin c (afterCandidate s (s.size.toNat / 2) c ws)) :=
  (exec_keygen_keyCandidate hp).trans (draw_nextAnswer ha)

end Answered

theorem testBegin_afterCandidate_tries (s : State) (bw c : Nat) (ws : List Nat) :
    (testBegin c (afterCandidate s bw c ws)).1.tries.toNat = triesPlusOne s := by
  rw [testBegin_tries]
  exact bumpTries_toNat s.tries

/-! ### PRIMETEST, step by step -/

/-- Settles O31: the three clauses are the three ways a test can begin. -/
theorem primetestEntry : Obligations.PrimetestEntry := by
  intro s hp
  obtain ⟨t, ht, hex, hin, hhost, hrand, htries, -⟩ :=
    exec_goesOnFrom (exec_primetest_entry (s := s) (by simp [hp])) (primetestGo_goesOnFrom _)
  refine ⟨t, hex, hin, hhost, hrand.trans (testBegin_rand _ s), htries.trans (testBegin_tries _ s), fun h => ?_,
    fun h2 h => ?_, fun h2 he hr => ?_⟩
  · cases ht.symm.trans (primetestGo_of_verdict (testBegin_rejects h))
    exact completedOk_complete ..
  · cases ht.symm.trans (primetestGo_of_verdict (testBegin_accepts h2 h))
    exact completedOk_complete ..
  · obtain ⟨hx, hbegun⟩ := testBegin_waits h2 he hr
    cases ht.symm.trans (primetestGo_of_needsWitness hx)
    exact ⟨testBegin_waitsAt _ s.opa s, hbegun⟩

/-- Settles O32: the one draw is answered, and the three clauses are the three ways a trial can end. -/
theorem primetestTrial : Obligations.PrimetestTrial := by
  intro s v ws hp hc _ ha
  replace hc : 2 ≤ (afterWitness s v ws).tst.cand := hc
  obtain ⟨t, ht, hex, hin, hhost, hrand, htries, -⟩ :=
    exec_goesOnFrom (exec_primetest_afterWitness hp ha) (primetestGo_goesOnFrom _)
  refine ⟨t, hex, hin, hhost, htries.trans (testTrial_tries ..), hrand.trans (testTrial_rand ..), fun hf => ?_,
    fun hf hl => ?_, fun hf hl => ?_⟩
  · cases ht.symm.trans (primetestGo_of_verdict (testTrial_rejects hc hf))
    exact completedOk_complete ..
  · cases ht.symm.trans (primetestGo_of_verdict (testTrial_accepts hc hf hl))
    exact completedOk_complete ..
  · obtain ⟨hx, hcounted⟩ := testTrial_waits hc hf hl
    cases ht.symm.trans (primetestGo_of_needsWitness hx)
    exact ⟨testTrial_waitsAt _ v (afterWitness s v ws), hcounted⟩

/-! ### PRIMEGEN, step by step -/

/-- Settles O36: the candidate is counted with its draw, and the three clauses are the three ways its test can begin. -/
theorem primegenCandidate : Obligations.PrimegenCandidate := by
  intro s c ws hp _ ha
  obtain ⟨t, ht, hex, hin, hhost, hrand, htries, -⟩ :=
    exec_goesOnFrom (exec_primegen_afterCandidate hp ha) (primegenGo_goesOnFrom _)
  refine ⟨t, hex, hin, hhost, ?_, hrand.trans (testBegin_rand ..), fun h => ?_, fun h2 h => ?_, fun h2 he hr => ?_⟩
  · rw [htries, testBegin_afterCandidate_tries]
  · cases ht.symm.trans (primegenGo_of_rejected (testBegin_rejects h))
    exact testBegin_waitsAt _ c (afterCandidate s s.size.toNat c ws)
  · cases ht.symm.trans (primegenGo_of_accepted (testBegin_accepts h2 h))
    rw [testBegin_cand]
    exact completedOk_complete ..
  · obtain ⟨hx, hbegun⟩ := testBegin_waits (s := afterCandidate s s.size.toNat c ws) h2 he hr
    cases ht.symm.trans (primegenGo_of_needsWitness hx)
    exact ⟨testBegin_waitsAt _ c (afterCandidate s s.size.toNat c ws), hbegun⟩

/-- Settles O37: a trial of PRIMEGEN is one of PRIMETEST that ends in a fresh candidate or in the candidate itself. -/
theorem primegenTrial : Obligations.PrimegenTrial := by
  intro s v ws hp hc _ ha
  replace hc : 2 ≤ (afterWitness s v ws).tst.cand := hc
  obtain ⟨t, ht, hex, hin, hhost, hrand, htries, -⟩ :=
    exec_goesOnFrom (exec_primegen_afterWitness hp ha) (primegenGo_goesOnFrom _)
  refine ⟨t, hex, hin, hhost, htries.trans (testTrial_tries ..), hrand.trans (testTrial_rand ..), fun hf => ?_,
    fun hf hl => ?_, fun hf hl => ?_⟩
  · cases ht.symm.trans (primegenGo_of_rejected (testTrial_rejects hc hf))
    exact testTrial_waitsAt _ v (afterWitness s v ws)
  · cases ht.symm.trans (primegenGo_of_accepted (testTrial_accepts hc hf hl))
    rw [testTrial_cand hc]
    exact completedOk_complete ..
  · obtain ⟨hx, hcounted⟩ := testTrial_waits hc hf hl
    cases ht.symm.trans (primegenGo_of_needsWitness hx)
    exact ⟨testTrial_waitsAt _ v (afterWitness s v ws), hcounted⟩

/-! ### KEYGEN, step by step -/

/-- Settles O53: a candidate that the tester does not accept at once leaves P alone, whichever prime it is for. -/
theorem keygenCandidate : Obligations.KeygenCandidate := by
  intro s k c ws hp ha hx
  set u := afterCandidate s (s.size.toNat / 2) c ws
  have hwaits (h2 : 2 ≤ c) :=
    have ⟨he, hr⟩ := hx.resolve_left (by omega)
    testBegin_waits (s := u) h2 he hr
  have hnot : (testBegin c u).2 ≠ .verdict true := by
    obtain h | h2 := Nat.lt_or_ge c 2
    · simp [testBegin_rejects h]
    · simp [(hwaits h2).1]
  obtain ⟨t, ht, hex, hin, hhost, hrand, htries, hkey⟩ :=
    exec_goesOnFrom (exec_keygen_afterCandidate hp ha) (keygenGo_goesOnFrom k hnot)
  refine ⟨t, hex, hin, hhost, ?_, hrand.trans (testBegin_rand ..), fun _ => ?_, fun h => ?_, fun h2 => ?_⟩
  · rw [htries, testBegin_afterCandidate_tries]
  · rw [hkey, testBegin_key]
    rfl
  · cases ht.symm.trans (keygenGo_of_rejected k (testBegin_rejects h))
    exact testBegin_waitsAt _ c u
  · obtain ⟨hx, hbegun⟩ := hwaits h2
    cases ht.symm.trans (keygenGo_of_needsWitness k hx)
    exact ⟨testBegin_waitsAt _ c u, hbegun⟩

/-- Settles O54: a trial that does not accept leaves P alone, whichever prime the candidate is for. -/
theorem keygenTrial : Obligations.KeygenTrial := by
  intro s k v ws hp hc _ ha hx
  set u := afterWitness s v ws
  replace hc : 2 ≤ u.tst.cand := hc
  have hwaits (hf : FermatPass u.tst.cand v) := testTrial_waits hc hf (hx.resolve_left (not_not.mpr hf))
  have hnot : (testTrial v u).2 ≠ .verdict true := by
    by_cases hf : FermatPass u.tst.cand v
    · simp [(hwaits hf).1]
    · simp [testTrial_rejects hc hf]
  obtain ⟨t, ht, hex, hin, hhost, hrand, htries, hkey⟩ :=
    exec_goesOnFrom (exec_keygen_afterWitness hp ha) (keygenGo_goesOnFrom k hnot)
  refine ⟨t, hex, hin, hhost, htries.trans (testTrial_tries ..), hrand.trans (testTrial_rand ..), fun _ => ?_,
    fun hf => ?_, fun hf => ?_⟩
  · rw [hkey, testTrial_key]
    rfl
  · cases ht.symm.trans (keygenGo_of_rejected k (testTrial_rejects hc hf))
    exact testTrial_waitsAt _ v u
  · obtain ⟨hx, hcounted⟩ := hwaits hf
    cases ht.symm.trans (keygenGo_of_needsWitness k hx)
    exact ⟨testTrial_waitsAt _ v u, hcounted⟩

/-- Wherever KEYGEN stands when the tester accepts a candidate for P, it takes the candidate and begins Q. -/
theorem keygen_firstPrime {s : State} {x : State × TestProgress} (he : exec .keygen s = keygenGo .p x)
    (hx : x.2 = .verdict true) (hw : ∀ p, waitsAt p s { x.1 with phase := p }) :
    ∃ t, exec .keygen s = .next t ∧ sameInputs s t ∧ sameHost s t ∧ t.rand = x.1.rand ∧ t.key.p = x.1.tst.cand ∧
      t.tries = 0#32 ∧ waitsAt (.keyCandidate .q) s t := by
  have hex := he.trans (keygenGo_of_accepted .p hx)
  obtain ⟨hin, hhost⟩ := commandsKeepInputs _ _ _ hex
  exact ⟨_, hex, hin, hhost, rfl, rfl, rfl, hw (.keyCandidate .q)⟩

/-- Settles O42: the candidate is accepted in its last trial or at once, and both ways it becomes P. -/
theorem keygenFirstPrime : Obligations.KeygenFirstPrime := by
  intro s c r n h
  cases h with
  | lastTrial v ws hp hc hl ha hf =>
    replace hc : 2 ≤ (afterWitness s v ws).tst.cand := hc
    have h := keygen_firstPrime (exec_keygen_afterWitness hp ha) (testTrial_accepts hc hf hl)
      fun p => testTrial_waitsAt p v (afterWitness s v ws)
    rwa [testTrial_rand, testTrial_cand hc] at h
  | untested c ws hp ha h2 h =>
    have h := keygen_firstPrime (exec_keygen_afterCandidate hp ha) (testBegin_accepts h2 h)
      fun p => testBegin_waitsAt p c (afterCandidate s (s.size.toNat / 2) c ws)
    rwa [testBegin_rand, testBegin_cand] at h

/-! ### A prime is never rejected -/

/-- Every witness below a prime passes (44_primality_tester.md R189). -/
theorem fermatPass_of_prime {c a : Nat} (hc : c.Prime) (h0 : a ≠ 0) (hlt : a < c) : FermatPass c a := by
  have hco : a.Coprime c := (Nat.coprime_of_lt_prime h0 hlt hc).symm
  have hmod : a ^ (c - 1) % c = 1 % c := Nat.ModEq.pow_card_sub_one_eq_one hc hco
  exact ⟨hco, hmod.trans (Nat.mod_eq_of_lt hc.one_lt)⟩

/-- An answer to a request for a witness is neither 0 nor the candidate or more (44_primality_tester.md R182). -/
theorem witness_bounds {s : State} {a : Nat} {ws : List Nat} (hc : 2 ≤ s.tst.cand)
    (h : nextAnswer s (witnessLo s) (witnessHi s) a ws) : a ≠ 0 ∧ a < s.tst.cand := by
  obtain ⟨-, hlo, hhi⟩ := h
  unfold witnessLo at hlo
  unfold witnessHi at hhi
  split at hlo
  · next hl => rw [if_pos hl] at hhi; omega
  · next hl => rw [if_neg hl] at hhi; omega

/-- A step of PRIMETEST that waits for a witness has none yet, or takes one in range. -/
theorem primetest_testWitness_cases {s t : State} (hp : s.phase = .testWitness) (h : exec .primetest s = .next t) :
    t = s ∨ ∃ a ws, nextAnswer s (witnessLo s) (witnessHi s) a ws := by
  rw [exec_primetest_testWitness hp] at h
  obtain ⟨-, e⟩ | ⟨a, ws, hans, h1, h2, -⟩ | ⟨a, ws, -, -, e⟩ := draw_cases (witnessLo s, witnessHi s) _ s
  · cases h.symm.trans e
    exact .inl rfl
  · exact .inr ⟨a, ws, hans, h1, h2⟩
  · cases h.symm.trans e

/-- PRIMETEST is running, and the host is silent. -/
structure RunsPrimetest (s : State) : Prop where
  busy : s.busy = true
  opc : s.opc = 4#32
  host : s.host = []

theorem RunsPrimetest.step_eq {s : State} (h : RunsPrimetest s) : step s = exec .primetest s :=
  step_exec h.busy h.host (h.opc ▸ decode_encode .primetest)

theorem RunsPrimetest.goesOn {s t : State} {p : Phase} (h : RunsPrimetest s) (hin : sameInputs s t)
    (hhost : sameHost s t) (hw : waitsAt p s t) : RunsPrimetest t := by
  obtain ⟨-, -, -, -, -, -, hopc⟩ := hin
  obtain ⟨-, hstatus, -⟩ := hw
  have hbusy : t.busy = s.busy := congrArg (·.getLsbD 0) hstatus
  exact ⟨hbusy.trans h.busy, hopc.trans h.opc, hhost.1.trans h.host⟩

/-- PRIMETEST of a prime is running: at its entry, or with the prime in CAND and a trial left. -/
structure TestsPrime (s : State) : Prop where
  runs : RunsPrimetest s
  prime : s.opa.Prime
  place : s.phase = .entry ∨
    (s.phase = .testWitness ∧ s.tst.cand = s.opa ∧ s.tst.trial.toNat < s.rounds.toNat)

/-- The block is idle with FLAG = 1 and no error, and the host is silent. -/
def hasAccepted (s : State) : Prop :=
  s.host = [] ∧ s.busy = false ∧ s.flag = true ∧ s.err = false

theorem hasAccepted_of_completedOk {r0 r1 : Nat} {s t : State} (hh : s.host = []) (hhost : sameHost s t)
    (h : completedOk true r0 r1 t) : hasAccepted t := by
  have hs : t.status = 0xA#32 := h.1
  refine ⟨hhost.1.trans hh, ?_⟩
  unfold State.busy State.flag State.err
  rw [hs]
  decide

/-- The test of a prime goes on when it waits for the next witness. -/
theorem TestsPrime.goesOn {s t : State} (h : TestsPrime s) (hin : sameInputs s t) (hhost : sameHost s t)
    (hw : waitsAt .testWitness s t) (hc : t.tst.cand = s.opa) (hn : t.tst.trial.toNat < s.rounds.toNat) :
    TestsPrime t := by
  have hruns := h.runs.goesOn hin hhost hw
  obtain ⟨hopa, -, -, -, hrounds, -, -⟩ := hin
  exact ⟨hruns, hopa ▸ h.prime, .inr ⟨hw.1, hc.trans hopa.symm, hrounds ▸ hn⟩⟩

/-- The first step of a test of a prime accepts or waits for a witness. -/
theorem TestsPrime.entry_step {s t : State} (h : TestsPrime s) (hp : s.phase = .entry)
    (hex : exec .primetest s = .next t) : TestsPrime t ∨ hasAccepted t := by
  obtain ⟨_, hex', hin, hhost, -, -, -, haccept, hwait⟩ := primetestEntry s hp
  cases hex.symm.trans hex'
  by_cases ha : emptyWitnessRange s.loose s.opa ∨ s.rounds = 0#32
  · exact .inr (hasAccepted_of_completedOk h.runs.host hhost (haccept h.prime.two_le ha))
  · obtain ⟨he, hr⟩ := not_or.mp ha
    obtain ⟨hw, hc, htrial⟩ := hwait h.prime.two_le he hr
    exact .inl (h.goesOn hin hhost hw hc (htrial ▸ (roundsNat_pos_iff s).mpr hr))

/-- A trial of a prime passes, so it accepts or waits for the next witness. -/
theorem TestsPrime.trial_step {s t : State} (h : TestsPrime s) (hp : s.phase = .testWitness)
    (hc : s.tst.cand = s.opa) (hn : s.tst.trial.toNat < s.rounds.toNat) (hex : exec .primetest s = .next t) :
    TestsPrime t ∨ hasAccepted t := by
  have hprime : s.tst.cand.Prime := hc ▸ h.prime
  obtain rfl | ⟨a, ws, ha⟩ := primetest_testWitness_cases hp hex
  · exact .inl h
  · obtain ⟨h0, hlt⟩ := witness_bounds hprime.two_le ha
    have hf : FermatPass s.tst.cand a := fermatPass_of_prime hprime h0 hlt
    obtain ⟨_, hex', hin, hhost, -, -, -, haccept, hwait⟩ := primetestTrial s a ws hp hprime.two_le hn ha
    cases hex.symm.trans hex'
    obtain hl | hl : s.tst.trial.toNat + 1 = s.rounds.toNat ∨ s.tst.trial.toNat + 1 < s.rounds.toNat := by omega
    · exact .inr (hasAccepted_of_completedOk h.runs.host hhost (haccept hf hl))
    · obtain ⟨hw, hcand, -, htrial⟩ := hwait hf hl
      exact .inl (h.goesOn hin hhost hw (hcand.trans hc) (htrial ▸ hl))

/-- Every step of a test of a prime goes on with it or accepts, and nothing happens after that. -/
theorem testsPrime_or_hasAccepted_step {s t : State} (h : TestsPrime s ∨ hasAccepted s) (hst : step s = .next t) :
    TestsPrime t ∨ hasAccepted t := by
  obtain h | h := h
  · rw [h.runs.step_eq] at hst
    obtain hp | ⟨hp, hc, hn⟩ := h.place
    · exact h.entry_step hp hst
    · exact h.trial_step hp hc hn hst
  · cases hst.symm.trans (step_idle h.2.1 h.1)
    exact .inr h

/-- Settles O33: each step of the run accepts the prime or goes on testing it, by Fermat's little theorem. -/
theorem primeNeverRejected : Obligations.PrimeNeverRejected := by
  intro s t n hb ho hp hh hprime hrun hidle
  have hs : TestsPrime s ∨ hasAccepted s := .inl ⟨⟨hb, ho, hh⟩, hprime, .inl hp⟩
  obtain hgoes | ⟨-, -, haccepted⟩ := steps_keep (fun _ _ => testsPrime_or_hasAccepted_step) hs hrun
  · cases hidle.symm.trans hgoes.runs.busy
  · exact haccepted

/-! ### The steps of PRIMETEST are the test -/

theorem keepsInputs_trans {s t u : State} (h : keepsInputs s t) (h' : keepsInputs t u) : keepsInputs s u := by
  obtain ⟨⟨a1, a2, a3, a4, a5, a6, a7⟩, b1, b2, b3⟩ := h
  obtain ⟨⟨c1, c2, c3, c4, c5, c6, c7⟩, d1, d2, d3⟩ := h'
  exact ⟨⟨c1.trans a1, c2.trans a2, c3.trans a3, c4.trans a4, c5.trans a5, c6.trans a6, c7.trans a7⟩,
    d1.trans b1, d2.trans b2, d3.trans b3⟩

/-- A number of steps completes with FLAG = `b`, leaves the answers `rest`, and changes neither TRIES nor an input nor
anything of the host's. -/
def answersTest (b : Bool) (rest : List Nat) (s : State) : Prop :=
  ∃ n t, steps n s = .next t ∧ completedOk b 0 0 t ∧ t.rand.answers = rest ∧ t.tries = s.tries ∧ keepsInputs s t

theorem answersTest_of_completedOk {b : Bool} {rest : List Nat} {s : State} (h : completedOk b 0 0 s)
    (hrest : s.rand.answers = rest) : answersTest b rest s :=
  ⟨0, s, rfl, h, hrest, rfl, keepsInputs_refl s⟩

theorem answersTest_of_step {b : Bool} {rest : List Nat} {s u : State} (hst : step s = .next u)
    (hk : keepsInputs s u) (htries : u.tries = s.tries) (h : answersTest b rest u) : answersTest b rest s := by
  obtain ⟨n, t, hn, hdone, hrest, ht, hkt⟩ := h
  exact ⟨n + 1, t, (steps_succ hst n).trans hn, hdone, hrest, ht.trans htries, keepsInputs_trans hk hkt⟩

/-- PRIMETEST waits for a witness in `[lo, hi]` for `c`, with `k` trials left and the answers `ws` to come. -/
structure AwaitsTrials (lo hi c k : Nat) (ws : List Nat) (s : State) : Prop where
  runs : RunsPrimetest s
  phase : s.phase = .testWitness
  range : witnessRange s.loose c = (lo, hi)
  two_le : 2 ≤ c
  cand : s.tst.cand = c
  left : s.tst.trial.toNat + k = s.rounds.toNat
  answers : s.rand.answers = ws

/-- From there the run makes the trials that are left (44_primality_tester.md R184, R185). -/
theorem answersTest_of_trials {lo hi c k : Nat} {ws rest : List Nat} {b : Bool} (ht : Trials lo hi c k ws b rest)
    {s : State} (hk : 0 < k) (h : AwaitsTrials lo hi c k ws s) : answersTest b rest s := by
  induction ht generalizing s with
  | done ws => omega
  | reject k a ws h1 h2 hf =>
    obtain ⟨hruns, hp, hrange, hc, rfl, hleft, hans⟩ := h
    obtain ⟨rfl, rfl⟩ := Prod.mk.inj ((witnessRange_eq s).symm.trans hrange)
    obtain ⟨t, hex, hin, hhost, htries, hrand, hreject, -, -⟩ :=
      primetestTrial s a ws hp hc (by omega) ⟨hans, h1, h2⟩
    exact answersTest_of_step (hruns.step_eq.trans hex) ⟨hin, hhost⟩ htries
      (answersTest_of_completedOk (hreject hf) (congrArg (·.answers) hrand))
  | pass k a ws rest b h1 h2 hf ht ih =>
    obtain ⟨hruns, hp, hrange, hc, rfl, hleft, hans⟩ := h
    obtain ⟨rfl, rfl⟩ := Prod.mk.inj ((witnessRange_eq s).symm.trans hrange)
    obtain ⟨t, hex, hin, hhost, htries, hrand, -, haccept, hwait⟩ :=
      primetestTrial s a ws hp hc (by omega) ⟨hans, h1, h2⟩
    refine answersTest_of_step (hruns.step_eq.trans hex) ⟨hin, hhost⟩ htries ?_
    cases k with
    | zero =>
      cases ht
      exact answersTest_of_completedOk (haccept hf hleft) (congrArg (·.answers) hrand)
    | succ k =>
      obtain ⟨hw, hcand, -, htrial⟩ := hwait hf (by omega)
      have hruns' := hruns.goesOn hin hhost hw
      obtain ⟨-, -, -, -, hrounds, hcfg, -⟩ := hin
      refine ih (Nat.succ_pos k) ⟨hruns', hw.1, ?_, hc, hcand, ?_, congrArg (·.answers) hrand⟩
      · rw [State.loose, hcfg]
        exact hrange
      · rw [htrial, hrounds]
        omega

/-- From the entry, with a witness range that is not empty, the run makes the trials. -/
theorem answersTest_of_entry {lo hi : Nat} {s : State} {b : Bool} {rest : List Nat} (h : RunsPrimetest s)
    (hp : s.phase = .entry) (hrange : witnessRange s.loose s.opa = (lo, hi)) (h2 : 2 ≤ s.opa)
    (he : ¬ emptyWitnessRange s.loose s.opa) (ht : Trials lo hi s.opa s.roundsNat s.rand.answers b rest) :
    answersTest b rest s := by
  obtain ⟨t, hex, hin, hhost, hrand, htries, -, haccept, hwait⟩ := primetestEntry s hp
  refine answersTest_of_step (h.step_eq.trans hex) ⟨hin, hhost⟩ htries ?_
  by_cases hr : s.rounds = 0#32
  · have hn : s.roundsNat = 0 := by simp [State.roundsNat, hr]
    rw [hn] at ht
    cases ht
    exact answersTest_of_completedOk (haccept h2 (.inr hr)) (congrArg (·.answers) hrand)
  · obtain ⟨hw, hcand, htrial⟩ := hwait h2 he hr
    have hruns := h.goesOn hin hhost hw
    obtain ⟨-, -, -, -, hrounds, hcfg, -⟩ := hin
    refine answersTest_of_trials ht ((roundsNat_pos_iff s).mpr hr)
      ⟨hruns, hw.1, ?_, h2, hcand, ?_, congrArg (·.answers) hrand⟩
    · rw [State.loose, hcfg]
      exact hrange
    · rw [htrial, hrounds]
      exact Nat.zero_add _

/-- Settles O34: without a draw the first step answers as the function does, and otherwise each step makes one of the
function's trials. -/
theorem primetestRefinesTest : Obligations.PrimetestRefinesTest := by
  intro s b rest hb ho hp hh h
  have hruns : RunsPrimetest s := ⟨hb, ho, hh⟩
  obtain ⟨t, hex, hin, hhost, hrand, htries, hreject, haccept, -⟩ := primetestEntry s hp
  have hfirst : answersTest b rest t → answersTest b rest s :=
    answersTest_of_step (hruns.step_eq.trans hex) ⟨hin, hhost⟩ htries
  cases h with
  | small h => exact hfirst (answersTest_of_completedOk (hreject h) (congrArg (·.answers) hrand))
  | emptyRange hl h =>
    exact hfirst (answersTest_of_completedOk (haccept (by omega) (.inl ⟨hl, h⟩)) (congrArg (·.answers) hrand))
  | tight _ _ hl h4 ht =>
    have he : ¬ emptyWitnessRange s.loose s.opa := fun ⟨_, h⟩ => by omega
    exact answersTest_of_entry hruns hp (hl ▸ witnessRange_tight s.opa) (by omega) he ht
  | wide _ _ hl h2 ht =>
    have he : ¬ emptyWitnessRange s.loose s.opa := fun ⟨h, _⟩ => by cases hl.symm.trans h
    exact answersTest_of_entry hruns hp (hl ▸ witnessRange_loose s.opa) h2 he ht

end Sys2Proof.Machine

/-! PROOFS. The prime generator: its entry check, the bit length of what it returns, and that its steps are
`generate_prime` as a function. -/

namespace Sys2Proof.Machine

open Sys2Proof.Safety

/-! ### The entry check -/

theorem exec_primegen_of_bitWidthOk {s : State} (hp : s.phase = .entry) (h : bitWidthOk s.sizeNat = true) :
    exec .primegen s = .next { genBegin s with phase := .genCandidate } :=
  (exec_primegen_entry (by simp [hp]) (by simp [hp])).trans (if_pos h)

theorem exec_primegen_of_not_bitWidthOk {s : State} (hp : s.phase = .entry) (h : ¬ bitWidthOk s.sizeNat = true) :
    exec .primegen s = .next (errorComplete .invalidBitWidth s) :=
  (exec_primegen_entry (by simp [hp]) (by simp [hp])).trans (if_neg h)

/-- Settles O35: SIZE passes the check or not, and either way nothing is drawn. -/
theorem primegenEntry : Obligations.PrimegenEntry := by
  intro s hp
  by_cases hn : bitWidthOk s.sizeNat = true
  · have hex := exec_primegen_of_bitWidthOk hp hn
    obtain ⟨hin, hhost⟩ := commandsKeepInputs _ _ _ hex
    obtain ⟨h0, hW⟩ := (bitWidthOk_iff _).mp hn
    refine ⟨_, hex, hin, hhost, rfl, fun h => ?_, fun _ _ => ⟨⟨rfl, rfl, rfl⟩, rfl⟩⟩
    exact absurd h (not_or.mpr ⟨h0, hW.not_gt⟩)
  · have hex := exec_primegen_of_not_bitWidthOk hp hn
    obtain ⟨hin, hhost⟩ := commandsKeepInputs _ _ _ hex
    refine ⟨_, hex, hin, hhost, rfl, fun _ => ⟨completedErr_errorComplete .invalidBitWidth s, rfl⟩, fun h0 hW => ?_⟩
    exact absurd ((bitWidthOk_iff _).mpr ⟨h0, hW⟩) hn

/-! ### The bit length of the result -/

theorem bitlen_of_exactBits {n v : Nat} (h : exactBits n v) : bitlen v = n := by
  obtain ⟨hlo, hhi⟩ := h
  have hle : bitlen v ≤ n := (bitlen_le_iff v n).mpr hhi
  have hge : ¬ bitlen v ≤ n - 1 := fun h => absurd ((bitlen_le_iff v _).mp h) hlo.not_gt
  omega

/-- A completion without an error returns `n` bits in RES0, and 0 in RES1. -/
def returnsBits (n : Nat) (t : State) : Prop :=
  t.busy = false → t.err = false → bitlen t.res0 = n ∧ t.res1 = 0

theorem returnsBits_of_busy {n : Nat} {t : State} (h : t.busy = true) : returnsBits n t :=
  fun hb => absurd (hb.symm.trans h) (by decide)

/-- PRIMEGEN returns the candidate the tester has accepted, and no other value. -/
theorem primegenGo_returnsBits {s : State} {c n : Nat} {x : State × TestProgress} (h : Tested s c x)
    (hb : s.busy = true) (hc : exactBits n c) : nextMeets (returnsBits n) (primegenGo x) := by
  obtain ⟨t, p⟩ := x
  obtain ⟨⟨e, v, u, rfl⟩, -, rfl, -, -⟩ := h
  match p with
  | .needsWitness => exact returnsBits_of_busy hb
  | .verdict false => exact returnsBits_of_busy hb
  | .verdict true => exact fun _ _ => ⟨bitlen_of_exactBits hc, rfl⟩

theorem primegen_returnsBits {s : State} (h : Inv s) (hb : s.busy = true) :
    nextMeets (returnsBits s.sizeNat) (exec .primegen s) := by
  by_cases hp : s.phase = .genCandidate
  · obtain ⟨-, -, hn⟩ : s.busy = true ∧ s.opc = 5#32 ∧ bitWidthOk s.sizeNat = true := by
      simpa [phaseOk, hp] using h.phase
    rw [exec_primegen_genCandidate hp]
    refine draw_nextMeets (returnsBits_of_busy hb) fun c r h1 h2 => ?_
    have hc : exactBits s.sizeNat c := exactBits_of_candidateRange h1 h2
    have hcw := exactBits_lt_width ((bitWidthOk_iff _).mp hn).2 hc
    exact primegenGo_returnsBits (genCandidateDrawn_tested { h.words with } hcw) hb hc
  by_cases hp' : s.phase = .genWitness
  · obtain ⟨-, -, -, ht, hc⟩ : s.busy = true ∧ s.opc = 5#32 ∧ bitWidthOk s.sizeNat = true ∧ testing s ∧
        exactBits s.sizeNat s.tst.cand := by
      simpa [phaseOk, hp'] using h.phase
    rw [exec_primegen_genWitness hp', ← witnessRange_eq]
    refine draw_nextMeets (returnsBits_of_busy hb) fun a r _ ha => ?_
    have hx := testTrial_tested (s := { s with rand := r }) { h.words with } ht ha
    exact primegenGo_returnsBits hx hb hc
  · rw [exec_primegen_entry hp hp']
    split
    · exact returnsBits_of_busy hb
    · exact fun _ herr => absurd (herr.symm.trans (errorComplete_err ..)) (by decide)

/-- Settles O38: what is returned has been drawn from the range of exactly SIZE bits, in this step or before. -/
theorem primegenResultHasSizeBits : Obligations.PrimegenResultHasSizeBits :=
  fun _ t h hb _ hex => nextMeets_iff.mp (primegen_returnsBits h hb) t hex

/-! ### A search for a prime -/

/-- A command that runs `generate_prime` (45_prime_generator.md R203), in whichever of its phases: `seeks` is where it
waits for a candidate, `tests` where it waits for a witness, and `go` is what it makes of the tester's standing.
PRIMEGEN and KEYGEN differ in the width of the prime and in what they do once the tester has accepted. -/
structure PrimeSearch where
  command : Instr
  width : Nat → Nat
  seeks : Phase
  tests : Phase
  go : State × TestProgress → Result
  exec_seeks {s : State} {c : Nat} {ws : List Nat} (hp : s.phase = seeks)
    (ha : nextAnswer s (2 ^ (width s.size.toNat - 1)) (2 ^ width s.size.toNat - 1) c ws) :
    exec command s = go (testBegin c (afterCandidate s (width s.size.toNat) c ws))
  exec_tests {s : State} {a : Nat} {ws : List Nat} (hp : s.phase = tests)
    (ha : nextAnswer s (witnessLo s) (witnessHi s) a ws) :
    exec command s = go (testTrial a (afterWitness s a ws))
  go_needsWitness {x : State × TestProgress} (h : x.2 = .needsWitness) : go x = .next { x.1 with phase := tests }
  go_rejected {x : State × TestProgress} (h : x.2 = .verdict false) : go x = .next { x.1 with phase := seeks }

/-- The search that PRIMEGEN is. -/
def primegenSearch : PrimeSearch where
  command := .primegen
  width := id
  seeks := .genCandidate
  tests := .genWitness
  go := primegenGo
  exec_seeks := exec_primegen_afterCandidate
  exec_tests := exec_primegen_afterWitness
  go_needsWitness := primegenGo_of_needsWitness
  go_rejected := primegenGo_of_rejected

/-- The command `i` is running, and the host is silent. -/
structure RunsSilently (i : Instr) (s : State) : Prop where
  busy : s.busy = true
  opc : s.opc = encode i
  host : s.host = []

/-- All that a search changes: the registers of the engine, of the inverse unit and of the tester, TRIES, the random
source and the phase. -/
def searchedFrom (s t : State) : Prop :=
  ∃ e v u n r p, t = { s with exp := e, inv := v, tst := u, tries := n, rand := r, phase := p }

section Searched

variable {s t : State} (h : searchedFrom s t)
include h

theorem searchedFrom_loose : t.loose = s.loose := by
  obtain ⟨_, _, _, _, _, _, rfl⟩ := h
  rfl

theorem searchedFrom_rounds : t.rounds = s.rounds := by
  obtain ⟨_, _, _, _, _, _, rfl⟩ := h
  rfl

theorem searchedFrom_size : t.size = s.size := by
  obtain ⟨_, _, _, _, _, _, rfl⟩ := h
  rfl

theorem searchedFrom_keepsInputs : keepsInputs s t := by
  obtain ⟨_, _, _, _, _, _, rfl⟩ := h
  exact keepsInputs_refl s

end Searched

theorem RunsSilently.step_eq {i : Instr} {s t : State} (h : RunsSilently i s) (hw : searchedFrom s t) :
    step t = exec i t := by
  obtain ⟨_, _, _, _, _, _, rfl⟩ := hw
  exact step_exec h.busy h.host ((congrArg decode h.opc).trans (decode_encode i))

/-- The search begun in `s₀` stands at `t` with `c` under test, TRIES = `n` and the answers `ws` to come. -/
structure StandsAt (s₀ : State) (c : Nat) (n : CtlWord) (ws : List Nat) (t : State) : Prop where
  searched : searchedFrom s₀ t
  cand : t.tst.cand = c
  tries : t.tries = n
  answers : t.rand.answers = ws

theorem StandsAt.withPhase {s₀ t : State} {c : Nat} {n : CtlWord} {ws : List Nat} (h : StandsAt s₀ c n ws t)
    (p : Phase) : StandsAt s₀ c n ws { t with phase := p } := by
  obtain ⟨⟨e, v, u, m, r, q, rfl⟩, hc, hn, hws⟩ := h
  exact ⟨⟨e, v, u, m, r, p, rfl⟩, hc, hn, hws⟩

/-- A trial takes one answer. -/
theorem StandsAt.afterTrial {s₀ s : State} {c a : Nat} {n : CtlWord} {ws ws' : List Nat} (h : StandsAt s₀ c n ws' s)
    (hc : 2 ≤ c) : StandsAt s₀ c n ws (testTrial a (afterWitness s a ws)).1 := by
  obtain ⟨⟨e, v, u, m, r, p, rfl⟩, rfl, rfl, -⟩ := h
  refine ⟨?_, testTrial_cand hc, testTrial_tries .., congrArg (·.answers) (testTrial_rand ..)⟩
  obtain ⟨e', v', u', he⟩ := testTrial_frame a (afterWitness _ a ws)
  exact ⟨e', v', u', _, _, _, he⟩

/-- A drawn candidate is under test, and TRIES has counted it. -/
theorem standsAt_testBegin {s₀ s : State} (h : searchedFrom s₀ s) (bw c : Nat) (ws : List Nat) :
    StandsAt s₀ c (bumpTries s.tries) ws (testBegin c (afterCandidate s bw c ws)).1 := by
  obtain ⟨e, v, u, m, r, p, rfl⟩ := h
  refine ⟨?_, testBegin_cand .., testBegin_tries .., congrArg (·.answers) (testBegin_rand ..)⟩
  obtain ⟨e', v', u', he⟩ := testBegin_frame c (afterCandidate _ bw c ws)
  exact ⟨e', v', u', _, _, _, he⟩

/-- A number of steps from `s` is what the command makes of the verdict `b` on `c`, with TRIES = `n` and the answers
`rest` to come. -/
def PrimeSearch.comesTo (g : PrimeSearch) (s₀ : State) (b : Bool) (c : Nat) (n : CtlWord) (rest : List Nat)
    (s : State) : Prop :=
  ∃ m x, steps m s = g.go x ∧ x.2 = .verdict b ∧ StandsAt s₀ c n rest x.1

theorem steps_one (s : State) : steps 1 s = step s := by
  unfold steps
  cases step s <;> rfl

section Search

variable {g : PrimeSearch} {s₀ s : State} {b : Bool} {lo hi c : Nat} {n : CtlWord} {ws rest : List Nat}

/-- The step that ends the test. -/
theorem comesTo_of_verdict {x : State × TestProgress} (hst : step s = g.go x) (hx : x.2 = .verdict b)
    (h : StandsAt s₀ c n rest x.1) : g.comesTo s₀ b c n rest s :=
  ⟨1, x, (steps_one s).trans hst, hx, h⟩

/-- A step after which the next witness is awaited. -/
theorem comesTo_of_needsWitness {x : State × TestProgress} (hst : step s = g.go x) (hx : x.2 = .needsWitness)
    (h : g.comesTo s₀ b c n rest { x.1 with phase := g.tests }) : g.comesTo s₀ b c n rest s := by
  obtain ⟨m, y, hm, hy⟩ := h
  exact ⟨m + 1, y, (steps_succ (hst.trans (g.go_needsWitness hx)) m).trans hm, hy⟩

variable (hruns : RunsSilently g.command s₀)
include hruns

/-- Where a witness is awaited, the next answer goes into a trial. -/
theorem step_of_awaitsWitness {a : Nat} (hc : 2 ≤ c) (hrange : witnessRange s₀.loose c = (lo, hi)) (h1 : lo ≤ a)
    (h2 : a ≤ hi) (hs : StandsAt s₀ c n (a :: ws) s) (hp : s.phase = g.tests) :
    step s = g.go (testTrial a (afterWitness s a ws)) ∧
      StandsAt s₀ c n ws (testTrial a (afterWitness s a ws)).1 := by
  refine ⟨?_, hs.afterTrial hc⟩
  obtain ⟨hw, rfl, -, hans⟩ := hs
  rw [← searchedFrom_loose hw] at hrange
  obtain ⟨rfl, rfl⟩ := Prod.mk.inj ((witnessRange_eq s).symm.trans hrange)
  exact (hruns.step_eq hw).trans (g.exec_tests hp ⟨hans, h1, h2⟩)

/-- Where a witness is awaited, the run makes the trials that are left (44_primality_tester.md R184, R185). -/
theorem comesTo_of_trials {k : Nat} (ht : Trials lo hi c k ws b rest) (hk : 0 < k) (hc : 2 ≤ c)
    (hrange : witnessRange s₀.loose c = (lo, hi)) (hs : StandsAt s₀ c n ws s) (hp : s.phase = g.tests)
    (hleft : s.tst.trial.toNat + k = s₀.rounds.toNat) : g.comesTo s₀ b c n rest s := by
  induction ht generalizing s with
  | done ws => omega
  | reject k a ws h1 h2 hf =>
    obtain ⟨hst, hstands⟩ := step_of_awaitsWitness hruns hc hrange h1 h2 hs hp
    obtain ⟨-, rfl, -, -⟩ := hs
    exact comesTo_of_verdict hst (testTrial_rejects hc hf) hstands
  | pass k a ws rest b h1 h2 hf ht ih =>
    obtain ⟨hst, hstands⟩ := step_of_awaitsWitness hruns hc hrange h1 h2 hs hp
    obtain ⟨hsearched, rfl, -, -⟩ := hs
    have hleft' : s.tst.trial.toNat + (k + 1) = s.rounds.toNat := searchedFrom_rounds hsearched ▸ hleft
    cases k with
    | zero =>
      cases ht
      exact comesTo_of_verdict hst (testTrial_accepts hc hf hleft') hstands
    | succ k =>
      have hlt : s.tst.trial.toNat + 1 < s.rounds.toNat := by omega
      obtain ⟨hx, -, -, htrial⟩ := testTrial_waits (s := afterWitness s a ws) hc hf hlt
      refine comesTo_of_needsWitness hst hx (ih (Nat.succ_pos k) (hstands.withPhase _) rfl ?_)
      refine Eq.trans ?_ hleft
      rw [htrial]
      exact Nat.add_right_comm ..

/-- A drawn candidate with a witness range that is not empty goes through the trials. -/
theorem comesTo_of_candidate {bw : Nat} (hs : searchedFrom s₀ s)
    (hst : step s = g.go (testBegin c (afterCandidate s bw c ws))) (hc : 2 ≤ c)
    (hrange : witnessRange s₀.loose c = (lo, hi)) (he : ¬ emptyWitnessRange s₀.loose c)
    (ht : Trials lo hi c s₀.roundsNat ws b rest) : g.comesTo s₀ b c (bumpTries s.tries) rest s := by
  have hstands := standsAt_testBegin hs bw c ws
  have hrounds := searchedFrom_rounds hs
  by_cases hr : s₀.rounds = 0#32
  · rw [show s₀.roundsNat = 0 by simp [State.roundsNat, hr]] at ht
    cases ht
    exact comesTo_of_verdict hst (testBegin_accepts hc (.inr (hrounds.trans hr))) hstands
  · rw [← searchedFrom_loose hs] at he
    obtain ⟨hx, -, htrial⟩ := testBegin_waits (s := afterCandidate s bw c ws) hc he (hrounds ▸ hr)
    refine comesTo_of_needsWitness hst hx
      (comesTo_of_trials hruns ht ((roundsNat_pos_iff s₀).mpr hr) hc hrange (hstands.withPhase _) rfl ?_)
    rw [htrial]
    exact Nat.zero_add _

/-- Where a candidate is awaited, the next answer is counted and tested as `is_probable_prime` does
(44_primality_tester.md R184). -/
theorem comesTo_of_probablePrime (hs : searchedFrom s₀ s) (hp : s.phase = g.seeks)
    (h1 : 2 ^ (g.width s₀.size.toNat - 1) ≤ c) (h2 : c < 2 ^ g.width s₀.size.toNat)
    (hans : s.rand.answers = c :: ws) (h : ProbablePrime s₀.loose s₀.roundsNat c ws b rest) :
    g.comesTo s₀ b c (bumpTries s.tries) rest s := by
  rw [← searchedFrom_size hs] at h1 h2
  have hst := (hruns.step_eq hs).trans (g.exec_seeks hp ⟨hans, h1, Nat.le_sub_one_of_lt h2⟩)
  have hstands := standsAt_testBegin hs (g.width s.size.toNat) c ws
  cases h with
  | small h => exact comesTo_of_verdict hst (testBegin_rejects h) hstands
  | emptyRange hl h =>
    have hl' : s.loose = false := (searchedFrom_loose hs).trans hl
    exact comesTo_of_verdict hst (testBegin_accepts (by omega) (.inl ⟨hl', h⟩)) hstands
  | tight _ _ hl h4 ht =>
    have he : ¬ emptyWitnessRange s₀.loose c := fun ⟨_, h⟩ => by omega
    exact comesTo_of_candidate hruns hs hst (by omega) (hl ▸ witnessRange_tight c) he ht
  | wide _ _ hl h2 ht =>
    have he : ¬ emptyWitnessRange s₀.loose c := fun ⟨h, _⟩ => by cases hl.symm.trans h
    exact comesTo_of_candidate hruns hs hst h2 (hl ▸ witnessRange_loose c) he ht

end Search

/-- From where a candidate is awaited, the run finds the prime that `generate_prime` finds, and TRIES has counted its
candidates (45_prime_generator.md R203, R205). -/
theorem comesTo_of_generatesPrime {g : PrimeSearch} {s₀ s : State} {ws rest : List Nat} {n p : Nat}
    (hruns : RunsSilently g.command s₀)
    (h : GeneratesPrime s₀.loose s₀.roundsNat (g.width s₀.size.toNat) ws n p rest) (hs : searchedFrom s₀ s)
    (hp : s.phase = g.seeks) (hans : s.rand.answers = ws) :
    ∃ r : CtlWord, r.toNat = min (s.tries.toNat + n) (2 ^ 32 - 1) ∧ g.comesTo s₀ true p r rest s := by
  induction h generalizing s with
  | accept c ws rest h1 h2 h =>
    exact ⟨_, bumpTries_toNat s.tries, comesTo_of_probablePrime hruns hs hp h1 h2 hans h⟩
  | retry c n p ws mid rest h1 h2 h hg ih =>
    obtain ⟨m, x, hm, hx, hstands⟩ := comesTo_of_probablePrime hruns hs hp h1 h2 hans h
    have hnext := hm.trans (g.go_rejected hx)
    obtain ⟨hsearched, -, htries, hmid⟩ := hstands.withPhase g.seeks
    obtain ⟨r, hr, m', y, hm', hy⟩ := ih hsearched rfl hmid
    refine ⟨r, ?_, m + m', y, (steps_add hnext m').trans hm', hy⟩
    rw [hr, htries, bumpTries_toNat]
    omega

/-- Settles O39: after the entry check the run is the search of PRIMEGEN, and the prime it finds is returned. -/
theorem primegenRefinesGenerator : Obligations.PrimegenRefinesGenerator := by
  intro s n p rest hb ho hp hh h0 hW h
  have hruns : RunsSilently primegenSearch.command s := ⟨hb, ho, hh⟩
  have hfirst : step s = .next { genBegin s with phase := .genCandidate } :=
    (step_exec hb hh (ho ▸ decode_encode .primegen)).trans
      (exec_primegen_of_bitWidthOk hp ((bitWidthOk_iff _).mpr ⟨h0, hW⟩))
  obtain ⟨r, hr, m, x, hm, hx, hsearched, rfl, htries, hrest⟩ :=
    comesTo_of_generatesPrime (g := primegenSearch) (s := { genBegin s with phase := .genCandidate }) hruns h
      ⟨_, _, _, _, _, _, rfl⟩ rfl rfl
  have hrun : steps (m + 1) s = .next (complete x.1.tst.cand 0 false x.1) :=
    (steps_succ hfirst m).trans (hm.trans (primegenGo_of_accepted hx))
  obtain ⟨hin, hhost⟩ := searchedFrom_keepsInputs hsearched
  refine ⟨m + 1, _, hrun, completedOk_complete .., ?_, hrest, hin, hhost⟩
  rw [complete_tries, htries, hr]
  exact congrArg (min · _) (Nat.zero_add n)

end Sys2Proof.Machine

/-! PROOFS. Key-pair generation: its entry check, the bit length of the modulus, and that its steps are two prime
generations and the key derivation. -/

namespace Sys2Proof.Machine

open Sys2Proof.Safety

/-! ### The entry check -/

theorem exec_keygen_of_keySizeOk {s : State} (hp : s.phase = .entry) (h : keySizeOk s.sizeNat = true) :
    exec .keygen s = .next { genBegin s with phase := .keyCandidate .p } :=
  (exec_keygen_entry (by simp [hp]) (by simp [hp])).trans (if_pos h)

theorem exec_keygen_of_not_keySizeOk {s : State} (hp : s.phase = .entry) (h : ¬ keySizeOk s.sizeNat = true) :
    exec .keygen s = .next (errorComplete .invalidBitWidth s) :=
  (exec_keygen_entry (by simp [hp]) (by simp [hp])).trans (if_neg h)

/-- Settles O41: SIZE passes the check or fails it for one of its three reasons, and either way nothing is drawn. -/
theorem keygenEntry : Obligations.KeygenEntry := by
  intro s hp
  by_cases hn : keySizeOk s.sizeNat = true
  · have hex := exec_keygen_of_keySizeOk hp hn
    obtain ⟨hin, hhost⟩ := commandsKeepInputs _ _ _ hex
    obtain ⟨h0, heven, hW⟩ := (keySizeOk_iff _).mp hn
    unfold State.sizeNat at h0 heven hW
    exact ⟨_, hex, hin, hhost, rfl, fun h => by omega, fun _ _ _ => ⟨⟨rfl, rfl, rfl⟩, rfl⟩⟩
  · have hex := exec_keygen_of_not_keySizeOk hp hn
    obtain ⟨hin, hhost⟩ := commandsKeepInputs _ _ _ hex
    refine ⟨_, hex, hin, hhost, rfl, fun _ => ⟨completedErr_errorComplete .invalidBitWidth s, rfl⟩,
      fun h0 heven hW => ?_⟩
    exact absurd ((keySizeOk_iff _).mpr ⟨h0, heven, hW⟩) hn

/-! ### The bit length of the modulus -/

/-- Two factors of half as many bits make a product one bit short or none (46_keypair_generator.md R225). -/
theorem bitlen_mul_of_exactBits {n p q : Nat} (heven : n % 2 = 0) (hp : exactBits (n / 2) p)
    (hq : exactBits (n / 2) q) : n - 1 ≤ bitlen (p * q) ∧ bitlen (p * q) ≤ n := by
  obtain ⟨hple, hplt⟩ := hp
  obtain ⟨hqle, hqlt⟩ := hq
  have hlo : 2 ^ (n - 2) ≤ p * q :=
    calc 2 ^ (n - 2) = 2 ^ (n / 2 - 1) * 2 ^ (n / 2 - 1) := by rw [← pow_add]; congr 1; omega
      _ ≤ p * q := Nat.mul_le_mul hple hqle
  have hhi : p * q < 2 ^ n :=
    calc p * q < 2 ^ (n / 2) * 2 ^ (n / 2) := Nat.mul_lt_mul'' hplt hqlt
      _ = 2 ^ n := by rw [← pow_add]; congr 1; omega
  have hnot : ¬ bitlen (p * q) ≤ n - 2 := fun h => absurd ((bitlen_le_iff _ _).mp h) hlo.not_gt
  exact ⟨by omega, (bitlen_le_iff _ _).mpr hhi⟩

/-- A completion without an error returns a modulus of `n` bits or one fewer in RES0. -/
def returnsModulus (n : Nat) (t : State) : Prop :=
  t.busy = false → t.err = false → n - 1 ≤ bitlen t.res0 ∧ bitlen t.res0 ≤ n

theorem returnsModulus_of_busy {n : Nat} {t : State} (h : t.busy = true) : returnsModulus n t :=
  fun hb => absurd (hb.symm.trans h) (by decide)

theorem returnsModulus_errorComplete (n : Nat) (k : ErrorKind) (s : State) :
    returnsModulus n (errorComplete k s) :=
  fun _ herr => absurd (herr.symm.trans (errorComplete_err ..)) (by decide)

/-- The derived key's modulus is the product of the two primes (46_keypair_generator.md R218). -/
theorem keyFinish_returnsModulus {n : Nat} {s : State} (heven : n % 2 = 0) (hp2 : 2 ≤ s.key.p)
    (hq2 : 2 ≤ s.key.q) (hp : exactBits (n / 2) s.key.p) (hq : exactBits (n / 2) s.key.q) :
    nextMeets (returnsModulus n) (keyFinish s) := by
  obtain ⟨_, _, -, -, ⟨-, d, e, -⟩ | ⟨-, e⟩⟩ := keyFinish_cases s hp2 hq2 <;> rw [e]
  · exact fun _ _ => bitlen_mul_of_exactBits heven hp hq
  · exact returnsModulus_errorComplete _ _ _

/-- KEYGEN completes without an error only once the tester has accepted a candidate for Q. -/
theorem keygenGo_returnsModulus {s : State} {c : Nat} {x : State × TestProgress} {k : KeySlot} (h : Tested s c x)
    (hb : s.busy = true) (hn : keySizeOk s.sizeNat = true) (hk : firstPrimeDone k s)
    (hc : exactBits s.primeWidth c) : nextMeets (returnsModulus s.sizeNat) (keygenGo k x) := by
  obtain ⟨t, p⟩ := x
  obtain ⟨⟨e, v, u, rfl⟩, -, rfl, -, hacc⟩ := h
  match p, k with
  | .needsWitness, _ => exact returnsModulus_of_busy hb
  | .verdict false, _ => exact returnsModulus_of_busy hb
  | .verdict true, .p => exact returnsModulus_of_busy hb
  | .verdict true, .q =>
    obtain ⟨-, heven, -⟩ := (keySizeOk_iff _).mp hn
    obtain ⟨hp2, hp⟩ := hk
    exact keyFinish_returnsModulus heven hp2 (hacc rfl) hp hc

theorem keygen_returnsModulus {s : State} (h : Inv s) (hb : s.busy = true) :
    nextMeets (returnsModulus s.sizeNat) (exec .keygen s) := by
  by_cases hp : ∃ k, s.phase = .keyCandidate k
  · obtain ⟨k, hp⟩ := hp
    obtain ⟨-, -, hn, hk⟩ : s.busy = true ∧ s.opc = 6#32 ∧ keySizeOk s.sizeNat = true ∧ firstPrimeDone k s := by
      simpa [phaseOk, hp] using h.phase
    rw [exec_keygen_keyCandidate hp]
    refine draw_nextMeets (returnsModulus_of_busy hb) fun c r h1 h2 => ?_
    have hc : exactBits s.primeWidth c := exactBits_of_candidateRange h1 h2
    have hcw := exactBits_lt_width ((Nat.div_le_self _ _).trans ((keySizeOk_iff _).mp hn).2.2) hc
    have hx := genCandidateDrawn_tested (s := { s with rand := r }) { h.words with } hcw
    exact (keygenGo_returnsModulus hx hb hn hk hc :)
  by_cases hp' : ∃ k, s.phase = .keyWitness k
  · obtain ⟨k, hp'⟩ := hp'
    obtain ⟨-, -, hn, hk, ht, hc⟩ : s.busy = true ∧ s.opc = 6#32 ∧ keySizeOk s.sizeNat = true ∧
        firstPrimeDone k s ∧ testing s ∧ exactBits s.primeWidth s.tst.cand := by
      simpa [phaseOk, hp'] using h.phase
    rw [exec_keygen_keyWitness hp', ← witnessRange_eq]
    refine draw_nextMeets (returnsModulus_of_busy hb) fun a r _ ha => ?_
    have hx := testTrial_tested (s := { s with rand := r }) { h.words with } ht ha
    exact (keygenGo_returnsModulus hx hb hn hk hc :)
  · rw [exec_keygen_entry (not_exists.mp hp) (not_exists.mp hp')]
    split
    · exact returnsModulus_of_busy hb
    · exact returnsModulus_errorComplete _ _ _

/-- Settles O44: the invariant says that P has half of SIZE's bits, and so has the candidate that becomes Q in the
completing step. -/
theorem keyModulusBitLength : Obligations.KeyModulusBitLength :=
  fun _ t h hb _ hex => nextMeets_iff.mp (keygen_returnsModulus h hb) t hex

/-! ### The key derivation -/

/-- The completion that key generation from the exponent `e` and the primes `p`, `q` ends in: the key when `e` has an
inverse, KeyGenerationFailed otherwise (46_keypair_generator.md R218 to R221, 60_exceptions.md R254). -/
def keyCompletes (e p q : Nat) (t : State) : Prop :=
  (Nat.gcd e ((p - 1) * (q - 1)) = 1 →
      ∃ d, completedOk false (p * q) d t ∧ d < (p - 1) * (q - 1) ∧
        d * e % ((p - 1) * (q - 1)) = 1 % ((p - 1) * (q - 1))) ∧
    (Nat.gcd e ((p - 1) * (q - 1)) ≠ 1 → completedErr 4#32 t)

theorem keyFinish_completes {s : State} (hp : 2 ≤ s.key.p) (hq : 2 ≤ s.key.q) :
    ∃ t, keyFinish s = .next t ∧ t.rand = s.rand ∧ t.tries = s.tries ∧ keepsInputs s t ∧
      keyCompletes s.opa s.key.p s.key.q t := by
  obtain ⟨_, _, -, -, ⟨hg, d, e, hd, hinv⟩ | ⟨hg, e⟩⟩ := keyFinish_cases s hp hq
  · exact ⟨_, e, rfl, rfl, keepsInputs_refl s, fun _ => ⟨d, completedOk_complete .., hd, hinv⟩, absurd hg⟩
  · exact ⟨_, e, rfl, rfl, keepsInputs_refl s, fun h => absurd h hg,
      fun _ => completedErr_errorComplete .keyGenerationFailed _⟩

/-! ### The two searches -/

/-- The search for the prime `k` that KEYGEN is between its draws (46_keypair_generator.md R217). -/
def keygenSearch (k : KeySlot) : PrimeSearch where
  command := .keygen
  width := (· / 2)
  seeks := .keyCandidate k
  tests := .keyWitness k
  go := keygenGo k
  exec_seeks := exec_keygen_afterCandidate
  exec_tests := exec_keygen_afterWitness
  go_needsWitness := keygenGo_of_needsWitness k
  go_rejected := keygenGo_of_rejected k

theorem two_le_of_probablePrime {loose : Bool} {rounds c : Nat} {ws rest : List Nat}
    (h : ProbablePrime loose rounds c ws true rest) : 2 ≤ c := by
  cases h with
  | emptyRange _ h => omega
  | tight _ _ _ h => omega
  | wide _ _ _ h => exact h

/-- Whatever the width, no value below 2 is returned (44_primality_tester.md R181). -/
theorem two_le_of_generatesPrime {loose : Bool} {rounds bw n p : Nat} {ws rest : List Nat}
    (h : GeneratesPrime loose rounds bw ws n p rest) : 2 ≤ p := by
  induction h with
  | accept c ws rest _ _ h => exact two_le_of_probablePrime h
  | retry _ _ _ _ _ _ _ _ _ _ ih => exact ih

/-- A run of `generate_prime` depends on the inputs only. -/
theorem generatesPrime_of_keepsInputs {s t : State} {n p : Nat} {ws rest : List Nat} (hk : keepsInputs s t)
    (h : GeneratesPrime s.loose s.roundsNat (s.size.toNat / 2) ws n p rest) :
    GeneratesPrime t.loose t.roundsNat (t.size.toNat / 2) ws n p rest := by
  obtain ⟨⟨-, -, -, hsize, hrounds, hcfg, -⟩, -⟩ := hk
  rwa [State.loose, State.roundsNat, hsize, hrounds, hcfg]

section Searches

variable {s : State} {n p q : Nat} {rest : List Nat} (hruns : RunsSilently .keygen s)
include hruns

/-- From the wait for a candidate for P, the run takes the prime that is found as P and begins Q with TRIES = 0. -/
theorem keygen_findsFirstPrime (hp : s.phase = .keyCandidate .p)
    (h : GeneratesPrime s.loose s.roundsNat (s.size.toNat / 2) s.rand.answers n p rest) :
    ∃ m t, steps m s = .next t ∧ RunsSilently .keygen t ∧ t.phase = .keyCandidate .q ∧ t.key.p = p ∧
      t.tries = 0#32 ∧ t.rand.answers = rest ∧ keepsInputs s t := by
  obtain ⟨_, -, m, ⟨x, b⟩, hm, rfl, ⟨e, v, u, c, r, f, rfl⟩, hcand, -, hrest⟩ :=
    comesTo_of_generatesPrime (g := keygenSearch .p) hruns h ⟨_, _, _, _, _, _, rfl⟩ hp rfl
  exact ⟨m, _, hm, ⟨hruns.busy, hruns.opc, hruns.host⟩, rfl, hcand, rfl, hrest, keepsInputs_refl s⟩

/-- From the wait for a candidate for Q, the run takes the prime that is found as Q and derives the key. -/
theorem keygen_findsSecondPrime (hp : s.phase = .keyCandidate .q) (h2 : 2 ≤ s.key.p)
    (h : GeneratesPrime s.loose s.roundsNat (s.size.toNat / 2) s.rand.answers n q rest) :
    ∃ m t, steps m s = .next t ∧ t.tries.toNat = min (s.tries.toNat + n) (2 ^ 32 - 1) ∧ t.rand.answers = rest ∧
      keepsInputs s t ∧ keyCompletes s.opa s.key.p q t := by
  obtain ⟨_, hcount, m, ⟨x, b⟩, hm, rfl, ⟨e, v, u, c, r, f, rfl⟩, rfl, rfl, hrest⟩ :=
    comesTo_of_generatesPrime (g := keygenSearch .q) hruns h ⟨_, _, _, _, _, _, rfl⟩ hp rfl
  obtain ⟨t, ht, hrand, htries, hk, hkey⟩ := keyFinish_completes
    (s := { s with exp := e, inv := v, tst := u, tries := c, rand := r, phase := f,
                   key := { s.key with q := u.cand } })
    h2 (two_le_of_generatesPrime h)
  exact ⟨m, t, hm.trans ht, (congrArg _ htries).trans hcount, (congrArg (·.answers) hrand).trans hrest, hk, hkey⟩

end Searches

/-- Settles O45: after the entry check the run is the search for P, then the search for Q, whose last step derives the
key. -/
theorem keygenRefinesKeyGeneration : Obligations.KeygenRefinesKeyGeneration := by
  intro s n1 n2 p q mid rest hb ho hp hh h0 heven hW hgp hgq
  have hfirst : step s = .next { genBegin s with phase := .keyCandidate .p } :=
    (step_exec hb hh (ho ▸ decode_encode .keygen)).trans
      (exec_keygen_of_keySizeOk hp ((keySizeOk_iff _).mpr ⟨h0, heven, hW⟩))
  obtain ⟨m1, t1, hm1, hruns, hphase, rfl, htries1, rfl, hk1⟩ :=
    keygen_findsFirstPrime (s := { genBegin s with phase := .keyCandidate .p }) ⟨hb, ho, hh⟩ rfl hgp
  replace hk1 : keepsInputs s t1 := hk1
  obtain ⟨m2, t, hm2, htries, hrest, hk2, hkey⟩ :=
    keygen_findsSecondPrime hruns hphase (two_le_of_generatesPrime hgp) (generatesPrime_of_keepsInputs hk1 hgq)
  have hrun : steps (m1 + m2 + 1) s = .next t := (steps_succ hfirst _).trans ((steps_add hm1 m2).trans hm2)
  obtain ⟨hin, hhost⟩ := keepsInputs_trans hk1 hk2
  obtain ⟨⟨hopa, -⟩, -⟩ := hk1
  rw [hopa] at hkey
  refine ⟨_, t, hrun, hrest, ?_, hin, hhost, hkey⟩
  rw [htries, htries1]
  exact congrArg (min · _) (Nat.zero_add n2)

end Sys2Proof.Machine

/-! PROOFS. The cipher transform: what TRANSFORM computes, and that a valid key's exponents undo each other. -/

namespace Sys2Proof.Machine

open Sys2Proof.Safety

/-- Settles O25: TRANSFORM and MODEXP are one command of the engine (47_cipher_transform.md R235), so what MODEXP
answers (O23) is what TRANSFORM answers. -/
theorem transformResult : Obligations.TransformResult := by
  intro s
  have hsame : exec .transform s = exec .modexp s := rfl
  obtain ⟨t, ht, hin, hhost, hrand, htries, hok, herr⟩ := modexpResult s
  exact ⟨t, hsame.trans ht, hin, hhost, hrand, htries, hok, herr, ht⟩

/-! ### The round trip -/

/-- Fermat's little theorem for an exponent that is 1 modulo `p - 1`; as the exponent is not 0, the base may be a
multiple of the prime. -/
theorem pow_modEq_self_of_prime {p k : Nat} (m : Nat) (hp : p.Prime) (hk : 1 ≤ k) (h : k ≡ 1 [MOD p - 1]) :
    m ^ k ≡ m [MOD p] := by
  have hdvd : p - 1 ∣ k - 1 := (Nat.modEq_iff_dvd' hk).mp h.symm
  have hpow : (m : Int) ^ k ≡ (m : Int) ^ 1 [ZMOD p] := Int.ModEq.pow_eq_pow hp hdvd hk Nat.one_pos m
  rw [pow_one] at hpow
  exact_mod_cast hpow

/-- A number that is 1 modulo `(p - 1) * (q - 1)`, for distinct primes, is not 0: one of the two is at least 3, so the
modulus is not 1. -/
theorem one_le_of_modEq_one {p q k : Nat} (hp : p.Prime) (hq : q.Prime) (hne : p ≠ q)
    (h : k ≡ 1 [MOD (p - 1) * (q - 1)]) : 1 ≤ k := by
  rw [Nat.one_le_iff_ne_zero]
  rintro rfl
  have hunit : (p - 1) * (q - 1) = 1 := Nat.dvd_one.mp ((Nat.modEq_iff_dvd' (Nat.zero_le 1)).mp h)
  obtain ⟨hp1, hq1⟩ := mul_eq_one.mp hunit
  have hp2 := hp.two_le
  have hq2 := hq.two_le
  omega

/-- The two exponents of a valid key undo each other (47_cipher_transform.md R240): they do so modulo each of the
primes, and hence modulo the product. -/
theorem pow_pow_mod_of_validKey {p q e d m : Nat} (hp : p.Prime) (hq : q.Prime) (hne : p ≠ q)
    (hde : d * e ≡ 1 [MOD (p - 1) * (q - 1)]) (hm : m < p * q) : (m ^ e % (p * q)) ^ d % (p * q) = m := by
  have hpos : 1 ≤ d * e := one_le_of_modEq_one hp hq hne hde
  have hmodp : m ^ (d * e) ≡ m [MOD p] := pow_modEq_self_of_prime m hp hpos (hde.of_dvd (Nat.dvd_mul_right ..))
  have hmodq : m ^ (d * e) ≡ m [MOD q] := pow_modEq_self_of_prime m hq hpos (hde.of_dvd (Nat.dvd_mul_left ..))
  have hmod : m ^ (d * e) ≡ m [MOD p * q] :=
    (Nat.modEq_and_modEq_iff_modEq_mul ((Nat.coprime_primes hp hq).mpr hne)).mp ⟨hmodp, hmodq⟩
  calc (m ^ e % (p * q)) ^ d % (p * q)
      = m ^ (d * e) % (p * q) := by rw [← Nat.pow_mod, ← pow_mul, mul_comm e d]
    _ = m % (p * q) := hmod
    _ = m := Nat.mod_eq_of_lt hm

/-- Settles O26: each transform is an exponentiation modulo `p * q` (O25), the first leaves the modulus in OPM for the
second, and the exponents undo each other. -/
theorem rsaRoundTrip : Obligations.RsaRoundTrip := by
  intro s p q e d m hp hq hne hde hm
  have hn : p * q ≠ 0 := Nat.mul_ne_zero hp.ne_zero hq.ne_zero
  obtain ⟨t, ht, ⟨-, -, hopm, -⟩, -, -, -, hfirst, -⟩ := transformResult { s with opa := m, opb := e, opm := p * q }
  replace hopm : t.opm = p * q := hopm
  obtain ⟨-, -, hres, -⟩ := hfirst hn
  obtain ⟨u, hu, -, -, -, -, hsecond, -⟩ := transformResult { t with opa := t.res0, opb := d }
  obtain ⟨hstatus, -, hback, -⟩ := hsecond (hopm.trans_ne hn)
  refine ⟨t, u, ht, hres, hu, hstatus, hback.trans ?_⟩
  rw [hopm, hres]
  exact pow_pow_mod_of_validKey hp hq hne hde hm

end Sys2Proof.Machine

/-! PROOFS. Error completions: which errors a command can raise, how KEYGEN ends, and how long a completion lasts. -/

namespace Sys2Proof.Machine

open Sys2Proof.Safety

/-! ### The errors of each command -/

@[simp] theorem testBegin_err (c : Nat) (s : State) : (testBegin c s).1.err = s.err := by
  obtain ⟨e, v, u, h⟩ := testBegin_frame c s
  rw [h]
  rfl

@[simp] theorem testTrial_err (a : Nat) (s : State) : (testTrial a s).1.err = s.err := by
  obtain ⟨e, v, u, h⟩ := testTrial_frame a s
  rw [h]
  rfl

/-- If ERR is set, this is an error completion with one of the codes `codes`. -/
def raisesOnly (codes : List CtlWord) (t : State) : Prop :=
  t.err = true → completedErr t.errcode t ∧ t.errcode ∈ codes

theorem raisesOnly_of_noError {codes : List CtlWord} {t : State} (h : t.err = false) : raisesOnly codes t :=
  fun herr => absurd (herr.symm.trans h) (by decide)

theorem raisesOnly_complete {codes : List CtlWord} {r0 r1 : Nat} {f : Bool} {s : State} :
    raisesOnly codes (complete r0 r1 f s) :=
  raisesOnly_of_noError (complete_err ..)

theorem raisesOnly_errorComplete {codes : List CtlWord} (k : ErrorKind) (s : State) (h : k.code ∈ codes) :
    raisesOnly codes (errorComplete k s) :=
  fun _ => ⟨completedErr_errorComplete k s, h⟩

theorem execModmul_raises (s : State) : nextMeets (raisesOnly [3#32]) (execModmul s) := by
  unfold execModmul
  split
  · exact raisesOnly_errorComplete .modulusTooSmall s (by decide)
  · exact raisesOnly_complete

theorem powCommand_raises (s : State) : nextMeets (raisesOnly [3#32]) (powCommand s) := by
  unfold powCommand
  split
  · exact raisesOnly_errorComplete .modulusTooSmall s (by decide)
  · exact raisesOnly_complete

theorem execModinv_raises (s : State) : nextMeets (raisesOnly [3#32, 2#32]) (execModinv s) := by
  by_cases hm : s.opm = 0
  · rw [execModinv_of_opm_eq_zero hm]
    exact raisesOnly_errorComplete .modulusTooSmall s (by decide)
  cases hx : (modInverse s.opa s.opm).1 with
  | some d =>
    rw [execModinv_of_some hm hx]
    exact raisesOnly_complete
  | none =>
    rw [execModinv_of_none hm hx]
    exact raisesOnly_errorComplete .noInverseExists _ (by decide)

theorem primetestGo_raises {x : State × TestProgress} (h : x.1.err = false) :
    nextMeets (raisesOnly []) (primetestGo x) := by
  unfold primetestGo
  split
  · exact raisesOnly_of_noError h
  · exact raisesOnly_complete

theorem primegenGo_raises {x : State × TestProgress} (h : x.1.err = false) :
    nextMeets (raisesOnly [1#32]) (primegenGo x) := by
  unfold primegenGo
  split
  · exact raisesOnly_of_noError h
  · exact raisesOnly_of_noError h
  · exact raisesOnly_complete

/-- A failing inverse is reported as KeyGenerationFailed, not as NoInverseExists (60_exceptions.md R254). -/
theorem keyFinish_raises (s : State) : nextMeets (raisesOnly [1#32, 4#32]) (keyFinish s) := by
  unfold keyFinish
  simp only []
  split
  · exact raisesOnly_complete
  · exact raisesOnly_errorComplete .keyGenerationFailed _ (by decide)

theorem keygenGo_raises {x : State × TestProgress} (k : KeySlot) (h : x.1.err = false) :
    nextMeets (raisesOnly [1#32, 4#32]) (keygenGo k x) := by
  unfold keygenGo
  split
  · exact raisesOnly_of_noError h
  · exact raisesOnly_of_noError h
  · cases k with
    | p => exact raisesOnly_of_noError h
    | q => exact keyFinish_raises _

section Drawing

variable {s : State} (h : s.err = false)
include h

theorem execPrimetest_raises : nextMeets (raisesOnly []) (execPrimetest s) := by
  unfold execPrimetest
  split
  · exact draw_nextMeets (raisesOnly_of_noError h) fun a r _ _ =>
      primetestGo_raises ((testTrial_err a { s with rand := r }).trans h)
  all_goals exact primetestGo_raises ((testBegin_err ..).trans h)

theorem execPrimegen_raises : nextMeets (raisesOnly [1#32]) (execPrimegen s) := by
  unfold execPrimegen
  split
  · exact draw_nextMeets (raisesOnly_of_noError h) fun c r _ _ => primegenGo_raises ((testBegin_err c _).trans h)
  · exact draw_nextMeets (raisesOnly_of_noError h) fun a r _ _ =>
      primegenGo_raises ((testTrial_err a { s with rand := r }).trans h)
  all_goals
    split
    · exact raisesOnly_of_noError h
    · exact raisesOnly_errorComplete .invalidBitWidth s (by decide)

theorem execKeygen_raises : nextMeets (raisesOnly [1#32, 4#32]) (execKeygen s) := by
  unfold execKeygen
  split
  · exact draw_nextMeets (raisesOnly_of_noError h) fun c r _ _ => keygenGo_raises _ ((testBegin_err c _).trans h)
  · exact draw_nextMeets (raisesOnly_of_noError h) fun a r _ _ =>
      keygenGo_raises _ ((testTrial_err a { s with rand := r }).trans h)
  all_goals
    split
    · exact raisesOnly_of_noError h
    · exact raisesOnly_errorComplete .invalidBitWidth s (by decide)

end Drawing

/-- Settles O51: a busy state has no error, and each place where a command raises one names its kind. -/
theorem errorKindsPerCommand : Obligations.ErrorKindsPerCommand := by
  intro i s t hinv hb hex
  obtain ⟨-, herr, -, -⟩ := hinv.flags.busyClean hb
  cases i with
  | modmul => exact nextMeets_iff.mp (execModmul_raises s) t hex
  | modexp => exact nextMeets_iff.mp (powCommand_raises s) t hex
  | modinv => exact nextMeets_iff.mp (execModinv_raises s) t hex
  | primetest => exact nextMeets_iff.mp (execPrimetest_raises herr) t hex
  | primegen => exact nextMeets_iff.mp (execPrimegen_raises herr) t hex
  | keygen => exact nextMeets_iff.mp (execKeygen_raises herr) t hex
  | transform => exact nextMeets_iff.mp (powCommand_raises s) t hex

/-! ### How KEYGEN ends -/

/-- Wherever KEYGEN stands when the tester accepts a candidate for Q, it takes the candidate and derives the key. -/
theorem keygen_secondPrime {s : State} {x : State × TestProgress} (he : exec .keygen s = keygenGo .q x)
    (hx : x.2 = .verdict true) (hkey : x.1.key = s.key) (hp : 2 ≤ s.key.p) (hq : 2 ≤ x.1.tst.cand) :
    ∃ t, exec .keygen s = .next t ∧ sameInputs s t ∧ sameHost s t ∧ t.rand = x.1.rand ∧ t.tries = x.1.tries ∧
      keyCompletes s.opa s.key.p x.1.tst.cand t := by
  obtain ⟨t, ht, hrand, htries, ⟨⟨hopa, -⟩, -⟩, hdone⟩ :=
    keyFinish_completes (s := { x.1 with key := { s.key with q := x.1.tst.cand } }) hp hq
  have hex : exec .keygen s = .next t := by rw [he, keygenGo_of_accepted .q hx, keyPrimeFound, hkey, ht]
  obtain ⟨hin, hhost⟩ := commandsKeepInputs _ _ _ hex
  have hsame : x.1.opa = s.opa := hopa.symm.trans hin.1
  exact ⟨t, hex, hin, hhost, hrand, htries, hsame ▸ hdone⟩

/-- Settles O43: the candidate is accepted in its last trial or at once, and both ways it becomes Q and the key is
derived. -/
theorem keygenFinish : Obligations.KeygenFinish := by
  intro s c r n h hp2
  cases h with
  | lastTrial v ws hp hc hl ha hf =>
    replace hc : 2 ≤ (afterWitness s v ws).tst.cand := hc
    have hcand := testTrial_cand (a := v) hc
    obtain ⟨t, hex, hin, hhost, hrand, htries, hdone⟩ := keygen_secondPrime (exec_keygen_afterWitness hp ha)
      (testTrial_accepts hc hf hl) (testTrial_key ..) hp2 (hc.trans_eq hcand.symm)
    rw [hcand] at hdone
    exact ⟨t, hex, hin, hhost, hrand.trans (testTrial_rand ..),
      congrArg BitVec.toNat (htries.trans (testTrial_tries ..)), hdone⟩
  | untested c ws hp ha h2 h =>
    have hcand := testBegin_cand c (afterCandidate s (s.size.toNat / 2) c ws)
    obtain ⟨t, hex, hin, hhost, hrand, htries, hdone⟩ := keygen_secondPrime (exec_keygen_afterCandidate hp ha)
      (testBegin_accepts h2 h) (testBegin_key ..) hp2 (h2.trans_eq hcand.symm)
    rw [hcand] at hdone
    exact ⟨t, hex, hin, hhost, hrand.trans (testBegin_rand ..),
      (congrArg BitVec.toNat htries).trans (testBegin_afterCandidate_tries ..), hdone⟩

/-! ### How long a completion lasts -/

/-- STATUS, ERRCODE and the results are as in `s`. -/
def keepsCompletion (s t : State) : Prop :=
  t.status = s.status ∧ t.errcode = s.errcode ∧ t.res0 = s.res0 ∧ t.res1 = s.res1

/-- Of all writes only the acceptance of a command changes a completion's state (60_exceptions.md R260). -/
theorem hostWrite_keepsCompletion {idx : RegIndex} (h : idx ≠ 8#4) (v : Nat) (s : State) :
    keepsCompletion s (hostWrite idx v s) := by
  obtain e | ⟨-, e | e | e | e | e | e | ⟨h8, -⟩⟩ := hostWrite_cases idx v s
  iterate 7
    · rw [e]
      exact ⟨rfl, rfl, rfl, rfl⟩
  · exact absurd h8 h

theorem hostRead_keepsCompletion (idx : RegIndex) (s : State) : keepsCompletion s (hostRead idx s) := by
  obtain e | e := hostRead_cases idx s <;> rw [e] <;> exact ⟨rfl, rfl, rfl, rfl⟩

theorem hostAct_keepsCompletion {a : HostAction} (s : State) (hr : a ≠ .reset) (hw : ∀ v, a ≠ .write 8#4 v) :
    nextMeets (keepsCompletion s) (hostAct a s) := by
  cases a with
  | write idx v =>
    have hidx : idx ≠ 8#4 := fun h => hw v (h ▸ rfl)
    unfold hostAct
    simp only []
    split
    · exact hostWrite_keepsCompletion hidx v s
    · exact trivial
  | read idx => exact hostRead_keepsCompletion idx s
  | reset => exact absurd rfl hr

/-- Settles O17: while idle only the host moves, and it neither resets the block nor writes to CMD. -/
theorem completionStateLasts : Obligations.CompletionStateLasts := by
  intro s t hb hs hr hw
  unfold step at hs
  obtain ⟨a, rest, hh, e⟩ | ⟨hb', -⟩ | ⟨-, es, -, e⟩ := nextMover_cases s
  · rw [hh] at hr hw
    rw [e] at hs
    exact nextMeets_iff.mp (hostAct_keepsCompletion { s with host := rest } (fun h => hr (h ▸ rfl))
      fun v h => hw v (h ▸ rfl)) t hs
  · cases hb.symm.trans hb'
  · rw [e] at hs
    cases hs
    exact ⟨rfl, rfl, rfl, rfl⟩

end Sys2Proof.Machine

/-! PROOFS. Reset, and what cannot happen while the block is busy: its values and the random source, the inputs of a
running command, and the two configurations that never complete. -/

namespace Sys2Proof.Machine

open Sys2Proof.Safety

/-! ### Reset -/

theorem step_reset {s : State} {rest : List HostEvent} (h : s.host = .act .reset :: rest) :
    step s = .next (resetBlock { s with host := rest }) :=
  step_hostAct h

/-- With no draw outstanding reset does not touch the random source (70_reset_and_hazards.md R283). -/
theorem resetBlock_rand {s : State} (h : drawRequest s = none) : (resetBlock s).rand = s.rand := by
  rw [resetBlock, h]

/-- Settles O12: a reset is performed at once, idle or busy, and sets each of these registers. -/
theorem resetGivesSpecValues : Obligations.ResetGivesSpecValues := by
  intro s rest hh
  exact ⟨_, step_reset hh, resetBlock_opa _, resetBlock_opb _, resetBlock_opm _, resetBlock_res0 _,
    resetBlock_res1 _, resetBlock_size _, resetBlock_rounds _, resetBlock_cfg _, resetBlock_status _,
    resetBlock_errcode _, resetBlock_tries _, resetBlock_opc _, resetBlock_host _⟩

/-- Settles O14: the draws made stay, and an answer is lost only for a draw that is outstanding. -/
theorem resetKeepsRandomSource : Obligations.ResetKeepsRandomSource := by
  intro s rest hh
  have hreq : drawRequest { s with host := rest } = drawRequest s := rfl
  exact ⟨_, step_reset hh, resetBlock_log _, fun h => resetBlock_rand (hreq.trans h), resetBlock_answers _⟩

/-! ### Steps of a busy block -/

/-- While busy a transaction other than a reset changes only what the host has read (70_reset_and_hazards.md R285). -/
theorem hostAct_busy {a : HostAction} {s t : State} (hb : s.busy = true) (ha : a ≠ .reset)
    (h : hostAct a s = .next t) : ∃ rs n, t = { s with reads := rs, fresh := n } := by
  cases a with
  | write idx v =>
    rw [hostAct, hostWrite_busy hb] at h
    split at h
    · cases h
      exact ⟨_, _, rfl⟩
    · cases h
  | read idx =>
    cases h
    obtain e | e := hostRead_cases idx s <;> exact ⟨_, _, e⟩
  | reset => exact absurd rfl ha

/-- Everything a step of a busy block that is no reset can do: a transaction without effect on the block, or a turn of
the sequencer. -/
theorem step_busy_cases {s t : State} (hb : s.busy = true) (hr : s.host.head? ≠ some (.act .reset))
    (h : step s = .next t) :
    (∃ es rs n, es ⊆ s.host ∧ t = { s with host := es, reads := rs, fresh := n }) ∨
      ∃ es, es ⊆ s.host ∧ sequencerStep { s with host := es } = .next t := by
  unfold step at h
  obtain ⟨a, rest, hh, e⟩ | ⟨-, es, hes, e⟩ | ⟨hb', -⟩ := nextMover_cases s
  · rw [hh] at hr
    rw [e] at h
    obtain ⟨rs, n, rfl⟩ := hostAct_busy (s := { s with host := rest }) hb (fun ha => hr (ha ▸ rfl)) h
    exact .inl ⟨rest, rs, n, hh ▸ List.subset_cons_self .., rfl⟩
  · rw [e] at h
    exact .inr ⟨es, hes, h⟩
  · cases hb.symm.trans hb'

theorem keepsInputs_sequencerStep (s : State) : nextMeets (keepsInputs s) (sequencerStep s) := by
  unfold sequencerStep
  split
  · exact keepsInputs_exec _ s
  · exact keepsInputs_refl s

/-- Settles O16: while busy no transaction but a reset writes an input, and neither does the sequencer (O48). -/
theorem busyInputsStable : Obligations.BusyInputsStable := by
  intro s t hb hr hs
  obtain ⟨_, _, _, -, rfl⟩ | ⟨es, -, h⟩ := step_busy_cases hb hr hs
  · exact ⟨rfl, rfl, rfl, rfl, rfl, rfl, rfl⟩
  · obtain ⟨hin, -⟩ := nextMeets_iff.mp (keepsInputs_sequencerStep { s with host := es }) t h
    exact hin

/-! ### The configurations that never complete -/

/-- A candidate of one bit is 1 or less, which the tester rejects, so that a fresh one is awaited
(45_prime_generator.md R206). -/
theorem hangs_draw {bw : Nat} {go : State × TestProgress → Result} {s : State} (h : Hangs s) (hbw : bw = 1)
    (hgo : ∀ x, x.2 = .verdict false → go x = .next { x.1 with phase := s.phase }) :
    nextMeets Hangs (draw (2 ^ (bw - 1), 2 ^ bw - 1) (fun c s1 => go (genCandidateDrawn c s1)) s) := by
  subst hbw
  refine draw_nextMeets h fun c r _ hc => ?_
  have hrejected : (genCandidateDrawn c { s with rand := r }).2 = .verdict false :=
    testBegin_rejects (Nat.lt_succ_of_le hc)
  obtain ⟨e, v, u, hx⟩ := testBegin_frame c { s with rand := r, tries := bumpTries s.tries }
  rw [hgo _ hrejected, genCandidateDrawn, hx]
  exact ⟨h.busy, h.command, h.noReset⟩

/-- A turn of the sequencer passes the entry check or rejects a candidate. -/
theorem hangs_sequencerStep {s : State} (h : Hangs s) : nextMeets Hangs (sequencerStep s) := by
  have hW := width_ge
  obtain ⟨ho, hsize, hp⟩ | ⟨ho, hsize, hp⟩ := h.command
  · have hn : s.sizeNat = 1 := congrArg BitVec.toNat hsize
    rw [sequencerStep_exec (i := .primegen) (ho ▸ decode_encode .primegen)]
    obtain hp | hp := hp
    · rw [exec_primegen_of_bitWidthOk hp ((bitWidthOk_iff _).mpr (by omega))]
      exact ⟨h.busy, .inl ⟨ho, hsize, .inr rfl⟩, h.noReset⟩
    · rw [exec_primegen_genCandidate hp]
      exact hangs_draw h hn fun x hx => hp ▸ primegenGo_of_rejected hx
  · have hn : s.sizeNat = 2 := congrArg BitVec.toNat hsize
    rw [sequencerStep_exec (i := .keygen) (ho ▸ decode_encode .keygen)]
    obtain hp | hp := hp
    · rw [exec_keygen_of_keySizeOk hp ((keySizeOk_iff _).mpr (by omega))]
      exact ⟨h.busy, .inr ⟨ho, hsize, .inr rfl⟩, h.noReset⟩
    · rw [exec_keygen_keyCandidate hp]
      exact hangs_draw h (by rw [State.primeWidth, hn]) fun x hx => hp ▸ keygenGo_of_rejected .p hx

theorem hangs_step {s t : State} (h : Hangs s) (hs : step s = .next t) : Hangs t := by
  have hr : s.host.head? ≠ some (.act .reset) := fun hh => h.noReset (List.mem_of_head? hh)
  obtain ⟨es, _, _, hes, rfl⟩ | ⟨es, hes, hx⟩ := step_busy_cases h.busy hr hs
  · exact ⟨h.busy, h.command, fun hm => h.noReset (hes hm)⟩
  · have h' : Hangs { s with host := es } := ⟨h.busy, h.command, fun hm => h.noReset (hes hm)⟩
    exact nextMeets_iff.mp (hangs_sequencerStep h') t hx

/-- Settles O40: every step keeps the configuration hanging, and a hanging block is busy. -/
theorem hangingConfigurationsStayBusy : Obligations.HangingConfigurationsStayBusy :=
  fun _ _ _ h hn => (steps_keep (fun _ _ => hangs_step) h hn).busy

end Sys2Proof.Machine
